-- ==== Sys2Proof/Word.lean ====
section
/-! DEFINITION. The word types of the machine. Every value is unsigned (00_scope.md R11). -/

namespace Sys2Proof

/-- A memory cell, a general register, a timer or an immediate NN: 8 bits (R8, R15, R30, R64). -/
abbrev Byte := BitVec 8

/-- An instruction word, the program counter, the index register or a stack entry: 16 bits
(R18, R20, R23, R63). -/
abbrev Word := BitVec 16

/-- The immediate nibble N, the sprite height of DXYN (R64). -/
abbrev Nibble := BitVec 4

/-- The immediate address NNN: 12 bits (R64). -/
abbrev Addr := BitVec 12

/-- One framebuffer row: bit 63 is column 0, bit 0 is column 63 (R27). -/
abbrev Row := BitVec 64

/-- The index of a general register, V0 to VF (R15). -/
abbrev Reg := Fin 16

end Sys2Proof
end

