-- ==== Sys2Proof/Machine/Flags.lean ====
section
/-! DEFINITION. The flag computations: each gives VF exactly 0 or exactly 1 from the operands read before
the instruction's first write (10_state.md R17; 42_alu.md R95). -/

namespace Sys2Proof.Machine

/-- A condition as a flag value (R17). -/
def flagOf (c : Bool) : Byte := if c then 1 else 0

/-- The carry of 8XY4: the unwrapped sum exceeds 255 (R104). -/
def carryFlag (a b : Byte) : Byte := flagOf (decide (a.toNat + b.toNat > 255))

/-- The no-borrow flag of 8XY5 (a − b, R105) and, with the operands swapped, of 8XY7 (R106). -/
def noBorrowFlag (a b : Byte) : Byte := flagOf (decide (a.toNat ≥ b.toNat))

/-- The bit shifted out to the right: bit 0 (R102). -/
def shrFlag (b : Byte) : Byte := flagOf (b.getLsbD 0)

/-- The bit shifted out to the left: bit 7 (R103). -/
def shlFlag (b : Byte) : Byte := flagOf (b.getLsbD 7)

/-- A drawn row collides: some lit pixel is turned off (R80, R83; R84 infers otherwise in one case, log 7). -/
def collides (old mask : Row) : Bool := old &&& mask != 0

end Sys2Proof.Machine
end

