-- ==== Sys2Proof/Config.lean ====
section
/-! DEFINITION. The parameters of 00_scope.md R8 and R9, the configuration latches of 10_state.md R32, and
the free values (the random draw, R36; the advance of the clock between two samples, R41). -/

namespace Sys2Proof

/-- STACK_ERROR_POLICY: what the scheduler does with a stack signal, `halt` or `continue` (here `cont`)
(R124, decision D11). -/
inductive StackErrorPolicy where
  | halt
  | cont
deriving DecidableEq, Repr

/-- VERTICAL_POLICY: what DXYN does with rows past row 31 (R82, decision D12). -/
inductive VerticalPolicy where
  | wrap
  | clip
deriving DecidableEq, Repr

/-- GROUP0_DECODE: how the words of group 0 are matched (R68, decision D2). -/
inductive Group0Decode where
  | exact
  | nibble
deriving DecidableEq, Repr

/-- The configuration latches of R32: written by the host while the block is IDLE, constant during a run,
and not reachable by a program. -/
structure Latches where
  /-- `cfg.IPS`, instructions per second. A run needs a positive value (R33). -/
  ips              : Nat
  /-- `cfg.Q_SHIFT`, read by 8XY6 and 8XYE. -/
  qShift           : Bool
  /-- `cfg.Q_JUMP`, read by BNNN. -/
  qJump            : Bool
  /-- `cfg.Q_INCR`, read by FX55 and FX65. -/
  qIncr            : Bool
  /-- `cfg.STACK_ERROR_POLICY`, read when 2NNN or 00EE signals. -/
  stackErrorPolicy : StackErrorPolicy
  /-- `cfg.VERTICAL_POLICY`, read by DXYN. -/
  verticalPolicy   : VerticalPolicy
  /-- `cfg.GROUP0_DECODE`, read by the decoder. -/
  group0Decode     : Group0Decode
  /-- `cfg.FONT`, 80 bytes, read by the reset sequence only. -/
  font             : Vector Byte 80
deriving DecidableEq, Repr

namespace Config

/-- MEM_SIZE: the number of memory cells (R8). -/
def memSize : Nat := 4096

/-- ADDR_MAX: the highest memory address (R8). -/
def addrMax : Nat := 0xFFF

/-- STACK_DEPTH: the number of return-stack entries (R8). -/
def stackDepth : Nat := 16

/-- FONT_BASE: where the font table begins (R8). -/
def fontBase : Nat := 0x050

/-- FONT_END: the last address of the font table (R8). -/
def fontEnd : Nat := 0x09F

/-- PROG_BASE: the load address and the reset value of pc (R8). -/
def progBase : Nat := 0x200

/-- HALT_PC: the run stops when pc is at or above it (R8, R141). -/
def haltPc : Nat := 0xFFF

/-- The bytes of the default FONT, glyph 0 to glyph F in address order (the table of R31). -/
def fontBytes : List Byte :=
  [0xF0, 0x90, 0x90, 0x90, 0xF0] ++ [0x20, 0x60, 0x20, 0x20, 0x70] ++
  [0xF0, 0x10, 0xF0, 0x80, 0xF0] ++ [0xF0, 0x10, 0xF0, 0x10, 0xF0] ++
  [0x90, 0x90, 0xF0, 0x10, 0x10] ++ [0xF0, 0x80, 0xF0, 0x10, 0xF0] ++
  [0xF0, 0x80, 0xF0, 0x90, 0xF0] ++ [0xF0, 0x10, 0x20, 0x40, 0x40] ++
  [0xF0, 0x90, 0xF0, 0x90, 0xF0] ++ [0xF0, 0x90, 0xF0, 0x10, 0xF0] ++
  [0xF0, 0x90, 0xF0, 0x90, 0x90] ++ [0xE0, 0x90, 0xE0, 0x90, 0xE0] ++
  [0xF0, 0x80, 0x80, 0x80, 0xF0] ++ [0xE0, 0x90, 0x90, 0x90, 0xE0] ++
  [0xF0, 0x80, 0xF0, 0x80, 0xF0] ++ [0xF0, 0x80, 0xF0, 0x80, 0x80]

/-- The default of the FONT parameter (R9, R31, decision D16). A claim about these bytes assumes this
default by name. -/
def defaultFont : Vector Byte 80 := ⟨fontBytes.toArray, by decide⟩

/-- The configuration latches before the host has written them. The last four have the defaults of
R137. IPS, Q_SHIFT, Q_JUMP and Q_INCR have no default in the spec (R9, decision D17): DESIGN CHOICE
(log 1) zero and false. No run ever uses these four: START is refused while IPS is 0 (R33), and CONFIG,
which alone makes IPS positive, writes every latch (R38). -/
def resetLatches : Latches where
  ips              := 0
  qShift           := false
  qJump            := false
  qIncr            := false
  stackErrorPolicy := .halt
  verticalPolicy   := .wrap
  group0Decode     := .exact
  font             := defaultFont

/-- FREE VALUE (log 3): the byte supplied on the RNG port for draw number `k`. Nothing constrains it
(R36, R42). -/
opaque randByte : Nat → Byte

/-- FREE VALUE (log 4): how far the monotonic clock has advanced, in seconds, between sample number `k`
and the sample before it. It is never negative, and nothing else constrains it (R41). -/
opaque clockAdvance : Nat → NNRat

end Config

end Sys2Proof
end

