-- ==== Sys2Proof/Syntax.lean ====
section
/-! DEFINITION. The instructions: one constructor per row of spec/opcode_table.json (30_encoding.md R72, R73).

A constructor holds every bit of its word that its row does not fix. Bits an operation ignores (N of 5XYN
and 9XYN, R71; X and Y of 00E0 and 00EE under GROUP0_DECODE = nibble, R68; all of an unknown word's bits,
R73) are held too, so that decoding loses nothing; the machine never reads them (log 13). -/

namespace Sys2Proof

inductive Instr where
  /-- 00E0: clear display (R79). `x` and `y` are the ignored nibbles: 0 and 0xE under `exact`. -/
  | cls (x : Reg) (y : Reg)
  /-- 00EE: return from subroutine (R89). `x` and `y` are the ignored nibbles: 0 and 0xE under `exact`. -/
  | ret (x : Reg) (y : Reg)
  /-- 1NNN: jump (R86). -/
  | jp (nnn : Addr)
  /-- 2NNN: call subroutine (R88). -/
  | call (nnn : Addr)
  /-- 3XNN: skip if Vx = NN (R90). -/
  | seImm (x : Reg) (nn : Byte)
  /-- 4XNN: skip if Vx ≠ NN (R91). -/
  | sneImm (x : Reg) (nn : Byte)
  /-- 5XYN: skip if Vx = Vy; `n` is ignored (R92). -/
  | seReg (x : Reg) (y : Reg) (n : Nibble)
  /-- 6XNN: set a register to a constant (R96). -/
  | ldImm (x : Reg) (nn : Byte)
  /-- 7XNN: add a constant, no flag (R97). -/
  | addImm (x : Reg) (nn : Byte)
  /-- 8XY0: copy a register (R98). -/
  | ldReg (x : Reg) (y : Reg)
  /-- 8XY1: bitwise OR (R99). -/
  | or (x : Reg) (y : Reg)
  /-- 8XY2: bitwise AND (R100). -/
  | and (x : Reg) (y : Reg)
  /-- 8XY3: bitwise exclusive OR (R101). -/
  | xor (x : Reg) (y : Reg)
  /-- 8XY4: add registers, with carry (R104). -/
  | addReg (x : Reg) (y : Reg)
  /-- 8XY5: Vx − Vy (R105). -/
  | sub (x : Reg) (y : Reg)
  /-- 8XY6: shift right by one (R102). -/
  | shr (x : Reg) (y : Reg)
  /-- 8XY7: Vy − Vx (R106). -/
  | subn (x : Reg) (y : Reg)
  /-- 8XYE: shift left by one (R103). -/
  | shl (x : Reg) (y : Reg)
  /-- 9XYN: skip if Vx ≠ Vy; `n` is ignored (R93). -/
  | sneReg (x : Reg) (y : Reg) (n : Nibble)
  /-- ANNN: set the index register (R108). -/
  | ldI (nnn : Addr)
  /-- BNNN: jump with offset (R87). -/
  | jpV0 (nnn : Addr)
  /-- CXNN: random byte masked by a constant (R107). -/
  | rnd (x : Reg) (nn : Byte)
  /-- DXYN: draw a sprite (R80). -/
  | drw (x : Reg) (y : Reg) (n : Nibble)
  /-- EX9E: key-pressed skip, not implemented by the block (R118). -/
  | skp (x : Reg)
  /-- EXA1: key-not-pressed skip, not implemented by the block (R119). -/
  | sknp (x : Reg)
  /-- FX07: read the delay timer (R115). -/
  | ldVxDt (x : Reg)
  /-- FX0A: await a key press, not implemented by the block (R120). -/
  | ldVxK (x : Reg)
  /-- FX15: set the delay timer (R116). -/
  | ldDtVx (x : Reg)
  /-- FX18: set the sound timer (R117). -/
  | ldStVx (x : Reg)
  /-- FX1E: add a register to I (R109). -/
  | addI (x : Reg)
  /-- FX29: point I at the font glyph of a value (R110). -/
  | ldF (x : Reg)
  /-- FX33: store the decimal digits of a register (R113). -/
  | ldB (x : Reg)
  /-- FX55: store V0 to Vx at I (R111). -/
  | ldMemRegs (x : Reg)
  /-- FX65: load V0 to Vx from I (R112). -/
  | ldRegsMem (x : Reg)
  /-- A word of group 0 that is neither CLS nor RET (R73). -/
  | unknown0 (nnn : Addr)
  /-- 8XY8 to 8XYD and 8XYF (R73). -/
  | unknown8 (x : Reg) (y : Reg) (n : Nibble)
  /-- EXNN with NN other than 9E and A1 (R73). -/
  | unknownE (x : Reg) (nn : Byte)
  /-- FXNN with NN in no row of the map (R73). -/
  | unknownF (x : Reg) (nn : Byte)
deriving DecidableEq, Repr

end Sys2Proof
end

