-- ==== Sys2Proof/WellFormed.lean ====
section
/-! DEFINITION. Which instructions stand for a word (30_encoding.md R68 to R73). Operands are in range by
their types; what is checked is that an unknown word is none of the words of its group's operations, and
that CLS and RET hold the nibbles their match fixes. -/

namespace Sys2Proof

/-- The words 0x0NNN that select CLS or RET (R68). -/
def group0Known (g : Group0Decode) (nnn : Addr) : Bool :=
  match g with
  | .exact  => nnn == 0x0E0 || nnn == 0x0EE
  | .nibble => nnn.extractLsb' 0 4 == 0x0 || nnn.extractLsb' 0 4 == 0xE

/-- The values of N that select an operation in group 8 (R69). -/
def group8Known (n : Nibble) : Bool := n.toNat ≤ 7 || n == 0xE

/-- The values of NN that select an operation in group E (R70). -/
def groupEKnown (nn : Byte) : Bool := nn == 0x9E || nn == 0xA1

/-- The values of NN that select an operation in group F (R70). -/
def groupFKnown (nn : Byte) : Bool :=
  nn == 0x07 || nn == 0x0A || nn == 0x15 || nn == 0x18 || nn == 0x1E || nn == 0x29 || nn == 0x33 ||
  nn == 0x55 || nn == 0x65

/-- The nibbles X and Y that a group-0 operation may hold: 0 and 0xE under `exact`, any under `nibble`
(R68). -/
def group0Nibbles (g : Group0Decode) (x y : Reg) : Bool :=
  match g with
  | .exact  => x == 0 && y == 0xE
  | .nibble => true

/-- `i` stands for a word under the group-0 match `g`. -/
def WellFormed (g : Group0Decode) : Instr → Bool
  | .cls x y | .ret x y => group0Nibbles g x y
  | .unknown0 nnn => !group0Known g nnn
  | .unknown8 _ _ n => !group8Known n
  | .unknownE _ nn => !groupEKnown nn
  | .unknownF _ nn => !groupFKnown nn
  | .jp _ | .call _ | .ldI _ | .jpV0 _ => true
  | .seImm _ _ | .sneImm _ _ | .ldImm _ _ | .addImm _ _ | .rnd _ _ => true
  | .seReg _ _ _ | .sneReg _ _ _ | .drw _ _ _ => true
  | .ldReg _ _ | .or _ _ | .and _ _ | .xor _ _ | .addReg _ _ | .sub _ _ | .shr _ _ | .subn _ _ | .shl _ _ => true
  | .skp _ | .sknp _ | .ldVxDt _ | .ldVxK _ | .ldDtVx _ | .ldStVx _ | .addI _ | .ldF _ | .ldB _ => true
  | .ldMemRegs _ | .ldRegsMem _ => true

end Sys2Proof
end

