-- ==== Sys2Proof/Decode.lean ====
section
/-! DEFINITION. The decoder and the encoder (30_encoding.md R63 to R73). -/

namespace Sys2Proof

/-! ## Fields -/

/-- A 4-bit register field as a register index; every value is valid (R15). -/
def regOf (b : Nibble) : Reg := b.toFin

/-- A register index as its 4-bit field. -/
def regBits (r : Reg) : Nibble := BitVec.ofFin r

/-- The six fields of an instruction word (R64). -/
structure Fields where
  op  : Nibble
  x   : Reg
  y   : Reg
  n   : Nibble
  nn  : Byte
  nnn : Addr
deriving DecidableEq, Repr

/-- The decoder proper: a pure function of the word, with no validation (R64). -/
def fieldsOf (w : Word) : Fields where
  op  := w.extractLsb' 12 4
  x   := regOf (w.extractLsb' 8 4)
  y   := regOf (w.extractLsb' 4 4)
  n   := w.extractLsb' 0 4
  nn  := w.extractLsb' 0 8
  nnn := w.extractLsb' 0 12

/-- Re-assembling a word from op, X, Y and N: `(op << 12) OR (X << 8) OR (Y << 4) OR N` (R66). -/
def assemble (op : Nibble) (x y : Reg) (n : Nibble) : Word := op ++ regBits x ++ regBits y ++ n

/-- A word of the form op X NN (R64: NN is Y and N together). -/
def assembleNN (op : Nibble) (x : Reg) (nn : Byte) : Word := op ++ regBits x ++ nn

/-- A word of the form op NNN (R64: NNN is X, Y and N together). -/
def assembleNNN (op : Nibble) (nnn : Addr) : Word := op ++ nnn

/-! ## Dispatch: a secondary selection in groups 0, 8, E and F (R67) -/

/-- Group 0 (R68). -/
def dispatch0 (g : Group0Decode) (f : Fields) : Instr :=
  match g with
  | .exact =>
    if f.nnn = 0x0E0 then .cls f.x f.y
    else if f.nnn = 0x0EE then .ret f.x f.y
    else .unknown0 f.nnn
  | .nibble =>
    if f.n = 0x0 then .cls f.x f.y
    else if f.n = 0xE then .ret f.x f.y
    else .unknown0 f.nnn

/-- Group 8, on N (R69). -/
def dispatch8 (f : Fields) : Instr :=
  match f.n.toNat with
  | 0x0 => .ldReg f.x f.y
  | 0x1 => .or f.x f.y
  | 0x2 => .and f.x f.y
  | 0x3 => .xor f.x f.y
  | 0x4 => .addReg f.x f.y
  | 0x5 => .sub f.x f.y
  | 0x6 => .shr f.x f.y
  | 0x7 => .subn f.x f.y
  | 0xE => .shl f.x f.y
  | _   => .unknown8 f.x f.y f.n

/-- Group E, on NN (R70). -/
def dispatchE (f : Fields) : Instr :=
  match f.nn.toNat with
  | 0x9E => .skp f.x
  | 0xA1 => .sknp f.x
  | _    => .unknownE f.x f.nn

/-- Group F, on NN (R70). -/
def dispatchF (f : Fields) : Instr :=
  match f.nn.toNat with
  | 0x07 => .ldVxDt f.x
  | 0x0A => .ldVxK f.x
  | 0x15 => .ldDtVx f.x
  | 0x18 => .ldStVx f.x
  | 0x1E => .addI f.x
  | 0x29 => .ldF f.x
  | 0x33 => .ldB f.x
  | 0x55 => .ldMemRegs f.x
  | 0x65 => .ldRegsMem f.x
  | _    => .unknownF f.x f.nn

/-- The first level, on op (R67). op is at most 15, so the last arm is group F. -/
def dispatch (g : Group0Decode) (f : Fields) : Instr :=
  match f.op.toNat with
  | 0x0 => dispatch0 g f
  | 0x1 => .jp f.nnn
  | 0x2 => .call f.nnn
  | 0x3 => .seImm f.x f.nn
  | 0x4 => .sneImm f.x f.nn
  | 0x5 => .seReg f.x f.y f.n
  | 0x6 => .ldImm f.x f.nn
  | 0x7 => .addImm f.x f.nn
  | 0x8 => dispatch8 f
  | 0x9 => .sneReg f.x f.y f.n
  | 0xA => .ldI f.nnn
  | 0xB => .jpV0 f.nnn
  | 0xC => .rnd f.x f.nn
  | 0xD => .drw f.x f.y f.n
  | 0xE => dispatchE f
  | _   => dispatchF f

/-- The instruction a word stands for. Total: every word is an operation of R72 or an unknown word of R73
(R74). -/
def decode (g : Group0Decode) (w : Word) : Instr := dispatch g (fieldsOf w)

/-! ## Bytes -/

/-- The word of two consecutive cells: high byte first (R50). -/
def wordOf (hi lo : Byte) : Word := hi ++ lo

/-- The high byte of a word, stored at the lower address (R50). -/
def hiByte (w : Word) : Byte := w.extractLsb' 8 8

/-- The low byte of a word, stored at the higher address (R50). -/
def loByte (w : Word) : Byte := w.extractLsb' 0 8

/-- Why bytes hold no instruction. -/
inductive DecodeError where
  /-- Fewer than the two bytes of an instruction word (R63). -/
  | truncated
deriving DecidableEq, Repr

/-- Decode the first instruction of a byte sequence and give the bytes after it. Total; every two bytes
decode (R63, R74). -/
def decodeBytes (g : Group0Decode) : List Byte → Except DecodeError (Instr × List Byte)
  | hi :: lo :: rest => .ok (decode g (wordOf hi lo), rest)
  | _ => .error .truncated

/-! ## The encoder -/

/-- The word of an instruction, from the patterns of R72 and R73. -/
def encode : Instr → Word
  | .cls x y => assemble 0x0 x y 0x0
  | .ret x y => assemble 0x0 x y 0xE
  | .jp nnn => assembleNNN 0x1 nnn
  | .call nnn => assembleNNN 0x2 nnn
  | .seImm x nn => assembleNN 0x3 x nn
  | .sneImm x nn => assembleNN 0x4 x nn
  | .seReg x y n => assemble 0x5 x y n
  | .ldImm x nn => assembleNN 0x6 x nn
  | .addImm x nn => assembleNN 0x7 x nn
  | .ldReg x y => assemble 0x8 x y 0x0
  | .or x y => assemble 0x8 x y 0x1
  | .and x y => assemble 0x8 x y 0x2
  | .xor x y => assemble 0x8 x y 0x3
  | .addReg x y => assemble 0x8 x y 0x4
  | .sub x y => assemble 0x8 x y 0x5
  | .shr x y => assemble 0x8 x y 0x6
  | .subn x y => assemble 0x8 x y 0x7
  | .shl x y => assemble 0x8 x y 0xE
  | .sneReg x y n => assemble 0x9 x y n
  | .ldI nnn => assembleNNN 0xA nnn
  | .jpV0 nnn => assembleNNN 0xB nnn
  | .rnd x nn => assembleNN 0xC x nn
  | .drw x y n => assemble 0xD x y n
  | .skp x => assembleNN 0xE x 0x9E
  | .sknp x => assembleNN 0xE x 0xA1
  | .ldVxDt x => assembleNN 0xF x 0x07
  | .ldVxK x => assembleNN 0xF x 0x0A
  | .ldDtVx x => assembleNN 0xF x 0x15
  | .ldStVx x => assembleNN 0xF x 0x18
  | .addI x => assembleNN 0xF x 0x1E
  | .ldF x => assembleNN 0xF x 0x29
  | .ldB x => assembleNN 0xF x 0x33
  | .ldMemRegs x => assembleNN 0xF x 0x55
  | .ldRegsMem x => assembleNN 0xF x 0x65
  | .unknown0 nnn => assembleNNN 0x0 nnn
  | .unknown8 x y n => assemble 0x8 x y n
  | .unknownE x nn => assembleNN 0xE x nn
  | .unknownF x nn => assembleNN 0xF x nn

/-- What the decoder reads from an instruction whose bits are `w`, numbered as spec/opcode_table.json
numbers them, under the default group-0 match (`exact`, R68; log 16). Every row has one 16-bit word, laid
out high byte first (R50). -/
def decodeTableWord (nbits w : Nat) : Option Instr :=
  let word := BitVec.ofNat 16 (w % 2 ^ nbits)
  match decodeBytes Config.resetLatches.group0Decode [hiByte word, loByte word] with
  | .ok (i, _) => some i
  | .error _ => none

end Sys2Proof
end

