-- ==== Sys2Proof/Machine/State.lean ====
section
/-! DEFINITION. The state of the machine (10_state.md R15 to R46), the reasons a step can stop, and the state
right after reset (R46, R136). -/

namespace Sys2Proof.Machine

/-- The memory: the listed cells, addresses strictly rising, no entry equal to what an unlisted address
reads as (Memory.wf of Machine/Ops.lean; R30, R47). -/
abbrev Memory := List Host.Cell

/-- One record of the FRAME port: the 32 rows and the two timers, before the decrement (R43, R130). -/
structure Frame where
  rows : Vector Row 32
  dt   : Byte
  st   : Byte
deriving DecidableEq, Repr

/-- `run_state` (R35). -/
inductive RunState where
  | idle
  | running
  | halted
  | faulted
deriving DecidableEq, Repr

/-- `phase` (R34). `exec`: the scheduler is at the loop check and, if it passes, executes one instruction
(R141). `wait`: it is in the wait phase (R142). `stopped`: the loop is not running. -/
inductive Phase where
  | exec
  | wait
  | stopped
deriving DecidableEq, Repr

/-- A transaction of the host on the CONFIG, LOAD or START port, or a new reset sequence (R38, R39, R40,
R126, R136). -/
inductive HostRequest where
  /-- CONFIG: write every latch (R38, R137). -/
  | config (l : Latches)
  /-- LOAD: store the program bytes from address 0x200 (R39, R138). -/
  | load (bytes : List Byte)
  /-- START: begin the scheduler loop (R40, R140). -/
  | start
  /-- A new reset sequence, given the FONT to load (R126, R136). -/
  | reset (font : Vector Byte 80)
deriving DecidableEq, Repr

/-- Everything the spec gives the machine. The last four fields are the model's own. -/
structure State where
  /-- General registers V0 to VF; register 15 is also the flag VF (R15, R17). -/
  v            : Vector Byte 16
  /-- The index register (R18). -/
  I            : Word
  /-- The program counter; never masked (R20). -/
  pc           : Word
  /-- The return-stack entries (R23). -/
  stack        : Vector Word 16
  /-- The stack depth, 0 to 16 (R23). -/
  sp           : Nat
  /-- The delay timer (R25). -/
  dt           : Byte
  /-- The sound timer (R25). -/
  st           : Byte
  /-- The framebuffer rows (R27). -/
  fb           : Vector Row 32
  /-- The memory (R30). -/
  mem          : Memory
  /-- The configuration latches (R32). -/
  cfg          : Latches
  /-- The monotonic clock at the start of the run, in seconds (R34). -/
  t0           : Rat
  /-- The instruction deadline `D_insn`, in seconds (R34). -/
  dInsn        : Rat
  /-- The timer deadline `D_tick`, in seconds (R34). -/
  dTick        : Rat
  /-- The scheduler phase (R34). -/
  phase        : Phase
  /-- `run_state` (R35). -/
  runState     : RunState
  /-- `fault_cause` (R35, R122). -/
  faultCause   : Byte
  /-- `fault_pc` (R35). -/
  faultPc      : Word
  /-- Whether LOAD has been taken since the reset sequence: at most one per reset (R138, D22). -/
  loaded       : Bool
  /-- The records emitted on the FRAME port, the newest first (R43). -/
  frames       : List Frame
  /-- The host's pending transactions, the oldest first (R38 to R40; log 9). -/
  hostIn       : List HostRequest
  /-- The random source (R36): the number of draws taken so far (log 3). -/
  rngDraws     : Nat
  /-- The latest sample of the CLOCK port, in seconds (R41; log 4). -/
  now          : Rat
  /-- The number of CLOCK samples taken so far (R41; log 4). -/
  clockSamples : Nat
deriving DecidableEq, Repr

/-- Why the block has no next step: 93_implementation_defined.md calls the state after HALTED or FAULTED
`stuck` (U3, O3). Each is raised by step alone, with no host transaction pending, and is safe: the block
itself does nothing more. No instruction raises one: an instruction's fault is a NEXT state (R125). -/
inductive Fault where
  /-- The run ended HALTED (R141, R143). -/
  | runHalted
  /-- The run ended FAULTED (R125, R126). -/
  | runFaulted
  /-- run_state is RUNNING while phase is STOPPED: no rule leads there (R125, R140, R141), and no state
  that meets Safety.lean's Inv is such. -/
  | schedulerStopped
deriving DecidableEq, Repr

/-- Input the model rejects: 93_implementation_defined.md's `refuse` (O4, O5). Each is raised by step when it
takes a host transaction, and is safe: the run it would lead to does not take place. -/
inductive Refusal where
  /-- Raised by exec for an instruction without a meaning; here none is left without one. -/
  | notModelled (mnemonic : String)
  /-- CONFIG with IPS = 0 (R33, O4, RS7). -/
  | configIpsZero
  /-- START while cfg.IPS is 0: the host has given no legal configuration (R33, R139). -/
  | startIpsZero
  /-- A second LOAD since the reset sequence (R138, O5, RS6). -/
  | secondLoad
  /-- CONFIG, LOAD or START while the block is not IDLE (R38, R39, R40, O5). -/
  | notIdle
deriving DecidableEq, Repr

/-- The machine right after the reset sequence with the default FONT, before CONFIG, LOAD and START (R46,
R136). Memory lists nothing: an unlisted address reads as its reset contents. t0, D_insn and D_tick are
set at START, and the spec gives them no value before: DESIGN CHOICE (log 5) zero. The latches are those
of Config.resetLatches (log 1), and the counters of the free values and the clock begin at zero (DESIGN
CHOICE, logs 3 and 4). -/
def State.reset : State where
  v            := Vector.replicate 16 0
  I            := 0
  pc           := 0x200
  stack        := Vector.replicate 16 0
  sp           := 0
  dt           := 0
  st           := 0
  fb           := Vector.replicate 32 0
  mem          := []
  cfg          := Config.resetLatches
  t0           := 0
  dInsn        := 0
  dTick        := 0
  phase        := .stopped
  runState     := .idle
  faultCause   := 0
  faultPc      := 0
  loaded       := false
  frames       := []
  hostIn       := []
  rngDraws     := 0
  now          := 0
  clockSamples := 0

end Sys2Proof.Machine
end

