-- ==== Sys2Proof/Machine/Ops.lean ====
section
/-! DEFINITION. The named operations over memory, the stack, the random source and pc, and taking a fault. -/

namespace Sys2Proof.Machine

/-! ## Memory (20_memory.md) -/

/-- What an address that is not listed reads as: its reset contents, the default FONT at 0x050 to 0x09F
and 0x00 in every other cell (R31, R46). -/
def Memory.unlisted (a : Nat) : Byte :=
  if Config.fontBase ≤ a ∧ a ≤ Config.fontEnd then Config.fontBytes.getD (a - Config.fontBase) 0 else 0

/-- The canonical form: addresses strictly rising, all of them cells of the 4096 (R47), and no entry equal
to what an unlisted address reads as. -/
abbrev Memory.wf (m : Memory) : Prop :=
  m.Pairwise (fun p q => p.1 < q.1) ∧ ∀ p ∈ m, p.1 ≤ Config.addrMax ∧ p.2 ≠ Memory.unlisted p.1

/-- `MemRead(a, 1)` (R53). -/
def Memory.read : Memory → Nat → Byte
  | [], a => Memory.unlisted a
  | (k, b) :: rest, a => if k = a then b else Memory.read rest a

/-- Put an entry before those of higher address, unless it equals what the unlisted address reads as. -/
def Memory.cons (a : Nat) (b : Byte) (rest : Memory) : Memory :=
  if b = Memory.unlisted a then rest else (a, b) :: rest

/-- Write one listed or unlisted cell, keeping the canonical form. -/
def Memory.insert (a : Nat) (b : Byte) : Memory → Memory
  | [] => Memory.cons a b []
  | (k, c) :: rest =>
    if a < k then Memory.cons a b ((k, c) :: rest)
    else if a = k then Memory.cons a b rest
    else (k, c) :: Memory.insert a b rest

/-- `MemWrite(a, 1, b)` (R53). Every rule checks the range first (R54), so `a` is at most 0xFFF; there is no
cell above it, and the operation leaves memory as it is there (log 12). -/
def Memory.write (m : Memory) (a : Nat) (b : Byte) : Memory :=
  if a ≤ Config.addrMax then Memory.insert a b m else m

/-- Store bytes at rising addresses from `a`, the first byte first (R52: FX33, FX55 and the program load). -/
def Memory.storeBytes (m : Memory) (a : Nat) : List Byte → Memory
  | [] => m
  | b :: bs => Memory.storeBytes (m.write a b) (a + 1) bs

/-- `CheckRange(a, n)`: whether it does nothing (R54). -/
def checkRange (a n : Nat) : Bool := n == 0 || decide (a + n - 1 ≤ Config.addrMax)

/-- `MemRead(a, 1)` of the machine's memory. -/
def State.readMem (s : State) (a : Nat) : Byte := s.mem.read a

/-- `Fetch(pc)`: the word at pc, high byte first (R50, R53). -/
def State.fetchWord (s : State) : Word := wordOf (s.readMem s.pc.toNat) (s.readMem (s.pc.toNat + 1))

/-! ## pc (10_state.md R21, R22) -/

/-- The fetch advance: pc ← A + 2 before the execute phase (R75). -/
def State.advance (s : State) : State := { s with pc := s.pc + 2 }

/-- A, the address of the instruction in its execute phase, where pc holds A + 2 (R21). -/
def State.insnAddr (s : State) : Word := s.pc - 2

/-- A skip: pc ← pc + 2 when the condition holds (R21, R90). -/
def State.skipIf (s : State) (c : Bool) : State := { s with pc := if c then s.pc + 2 else s.pc }

/-! ## Faults and signals (60_exceptions.md)

A fault ends the run: there is no vector, no handler, no mode change and no return from a fault (R125, R126),
so no operation stands beside these for a return. -/

/-- The conditions of R122. -/
inductive FaultKind where
  | stackOverflow
  | stackUnderflow
  | memoryOutOfRange
deriving DecidableEq, Repr

/-- The codes of `fault_cause` (R122). -/
def faultCode : FaultKind → Byte
  | .stackOverflow    => 1
  | .stackUnderflow   => 2
  | .memoryOutOfRange => 3

/-- `raise E`: the fault entry of R125, taken at the end of the execute phase. It changes the status record
and the phase and nothing else; pc stays A + 2. -/
def State.faultEntry (s : State) (e : FaultKind) : State :=
  { s with
    runState   := .faulted
    faultCause := faultCode e
    faultPc    := s.insnAddr
    phase      := .stopped }

/-- `signal E`: a stack signal and what the scheduler does with it (R123, R124). `halt` takes the fault
entry; `continue` drops the signal and records nothing. -/
def State.signal (s : State) (e : FaultKind) : State :=
  match s.cfg.stackErrorPolicy with
  | .halt => s.faultEntry e
  | .cont => s

/-- The effect `t` of an instruction that reaches `n` bytes of memory from I: the range is checked before
any write, and a range that passes 0xFFF raises MemoryOutOfRange instead (R54). -/
def State.guardRange (s : State) (n : Nat) (t : State) : State :=
  if checkRange s.I.toNat n then t else s.faultEntry .memoryOutOfRange

/-! ## The return stack (10_state.md R23, R24) -/

/-- `Push(w)`, only when sp < 16 (R24). -/
def State.push (s : State) (w : Word) : State :=
  { s with stack := s.stack.setIfInBounds s.sp w, sp := s.sp + 1 }

/-- The entry that `Pop()` returns, only when sp > 0 (R24). -/
def State.top (s : State) : Word := s.stack[s.sp - 1]?.getD 0

/-- `Pop()`, only when sp > 0; the entry keeps its value (R24, R89). -/
def State.pop (s : State) : State := { s with sp := s.sp - 1 }

/-! ## The random source (10_state.md R36) -/

/-- `rand8()`: the byte of the next draw, a free value (R36; log 3). -/
def State.rand8 (s : State) : Byte := Config.randByte s.rngDraws

/-- One draw taken (R36). -/
def State.drawn (s : State) : State := { s with rngDraws := s.rngDraws + 1 }

end Sys2Proof.Machine
end

