-- ==== Sys2Proof/Machine/Operands.lean ====
section
/-! DEFINITION. The operand forms (30_encoding.md R65): a general register, an immediate byte (used as it
is, 8 bits), an address zero-extended to 16 bits, the bytes at I plus a constant offset, the register that
a quirk selects, and the coordinates and row mask of a sprite. -/

namespace Sys2Proof.Machine

/-- The flag register VF (R8, R17). -/
def VF : Reg := 15

/-- `x[r]` (R12, R15). No register is hardwired. -/
def State.getV (s : State) (r : Reg) : Byte := s.v.get r

/-- `x[r] <- b` (R12, R15). -/
def State.setV (s : State) (r : Reg) (b : Byte) : State := { s with v := s.v.set r.val b r.isLt }

/-- A result to Vx and then a flag to VF, VF last (R95). -/
def State.setVFlag (s : State) (x : Reg) (b flag : Byte) : State := (s.setV x b).setV VF flag

/-- NNN as a 16-bit value (R65). -/
def addrOf (nnn : Addr) : Word := nnn.zeroExtend 16

/-- The value 8XY6 and 8XYE shift: Vy when Q_SHIFT is set, else Vx (R102, R103). -/
def State.shiftSource (s : State) (x y : Reg) : Byte := if s.cfg.qShift then s.getV y else s.getV x

/-- The register BNNN adds: V0, or the one NNN[11:8] selects when Q_JUMP is set (R87). -/
def State.jumpReg (s : State) (nnn : Addr) : Reg :=
  if s.cfg.qJump then regOf (nnn.extractLsb' 8 4) else 0

/-- The byte at I + k; I + k is an unbounded natural (R54). -/
def State.readI (s : State) (k : Nat) : Byte := s.readMem (s.I.toNat + k)

/-- I after FX55 or FX65 with last register x: advanced by x + 1, modulo 2^16, when Q_INCR is set
(R111, R112). -/
def State.bulkIndex (s : State) (x : Reg) : Word :=
  if s.cfg.qIncr then s.I + BitVec.ofNat 16 (x.val + 1) else s.I

/-- V0 to Vx, in order (R111). -/
def State.regsUpTo (s : State) (x : Reg) : List Byte := s.v.toList.take (x.val + 1)

/-- The registers after V0 to Vx are loaded from I (R112). -/
def State.loadedRegs (s : State) (x : Reg) : Vector Byte 16 :=
  Vector.ofFn fun r : Reg => if r ≤ x then s.readI r.val else s.getV r

/-- The hundreds, tens and ones digits of a value (R113). -/
def bcdDigits (b : Byte) : List Byte :=
  [BitVec.ofNat 8 (b.toNat / 100), BitVec.ofNat 8 (b.toNat / 10 % 10), BitVec.ofNat 8 (b.toNat % 10)]

/-- The address of the font glyph of a value: a plain product, no masking (R110). -/
def glyphAddr (b : Byte) : Word := BitVec.ofNat 16 (Config.fontBase + b.toNat * 5)

/-! ## Sprites (40_display.md) -/

/-- The column of a sprite's origin: `x[X] mod 64` (R80). -/
def State.spriteCol (s : State) (x : Reg) : Nat := (s.getV x).toNat % 64

/-- The row of a sprite's origin: `x[Y] mod 32` (R80). -/
def State.spriteRow (s : State) (y : Reg) : Nat := (s.getV y).toNat % 32

/-- `RowMask(b, col)`: the 8 pixels of a sprite byte in a 64-bit row; pixels past column 63 are dropped
(R81). -/
def rowMask (b : Byte) (col : Nat) : Row :=
  if col ≤ 56 then b.zeroExtend 64 <<< (56 - col) else b.zeroExtend 64 >>> (col - 56)

/-- The framebuffer row that sprite row position `p` (row0 + r) lands on: p mod 32 under `wrap`; under
`clip`, none past row 31 (R82). -/
def landingRow (policy : VerticalPolicy) (p : Nat) : Option (Fin 32) :=
  match policy with
  | .wrap => some ⟨p % 32, Nat.mod_lt p (by decide)⟩
  | .clip => if h : p < 32 then some ⟨p, h⟩ else none

end Sys2Proof.Machine
end

