-- ==== Sys2Proof/Machine/Control.lean ====
section
/-! DEFINITION. Control-transfer instructions (41_control_flow.md). pc holds A + 2 on entry (R85). -/

namespace Sys2Proof.Machine

/-- JP NNN (R86). -/
def execJp (nnn : Addr) (s : State) : Host.Outcome State Fault Refusal :=
  .next { s with pc := addrOf nnn }

/-- JP V0, NNN (R87): the sum is not masked. -/
def execJpV0 (nnn : Addr) (s : State) : Host.Outcome State Fault Refusal :=
  .next { s with pc := addrOf nnn + (s.getV (s.jumpReg nnn)).zeroExtend 16 }

/-- CALL NNN (R88). sp is never above 16 (R23); the check stops there too (log 12). -/
def execCall (nnn : Addr) (s : State) : Host.Outcome State Fault Refusal :=
  if s.sp ≥ Config.stackDepth then .next (s.signal .stackOverflow)
  else .next { s.push s.pc with pc := addrOf nnn }

/-- RET (R89). -/
def execRet (_x _y : Reg) (s : State) : Host.Outcome State Fault Refusal :=
  if s.sp = 0 then .next (s.signal .stackUnderflow)
  else .next { s.pop with pc := s.top }

/-- SE Vx, NN (R90). -/
def execSeImm (x : Reg) (nn : Byte) (s : State) : Host.Outcome State Fault Refusal :=
  .next (s.skipIf (s.getV x == nn))

/-- SNE Vx, NN (R91). -/
def execSneImm (x : Reg) (nn : Byte) (s : State) : Host.Outcome State Fault Refusal :=
  .next (s.skipIf (s.getV x != nn))

/-- SE Vx, Vy (R92): N is ignored. -/
def execSeReg (x y : Reg) (_n : Nibble) (s : State) : Host.Outcome State Fault Refusal :=
  .next (s.skipIf (s.getV x == s.getV y))

/-- SNE Vx, Vy (R93): N is ignored. -/
def execSneReg (x y : Reg) (_n : Nibble) (s : State) : Host.Outcome State Fault Refusal :=
  .next (s.skipIf (s.getV x != s.getV y))

end Sys2Proof.Machine
end

