-- ==== Sys2Proof/Machine/Display.lean ====
section
/-! DEFINITION. Display instructions (40_display.md): CLS, DRW. -/

namespace Sys2Proof.Machine

/-- CLS (R79): every framebuffer row is 0. -/
def execCls (_x _y : Reg) (s : State) : Host.Outcome State Fault Refusal :=
  .next { s with fb := Vector.replicate 32 0 }

/-- One iteration of DXYN's loop: draw sprite row `r` and update the collision flag (R80, R82, R83). -/
def drawRow (s : State) (col row0 : Nat) (acc : Vector Row 32 × Byte) (r : Nat) : Vector Row 32 × Byte :=
  match landingRow s.cfg.verticalPolicy (row0 + r) with
  | none => acc
  | some k =>
    let mask := rowMask (s.readI r) col
    let old := acc.1.get k
    (acc.1.set k.val (old ^^^ mask) k.isLt, if collides old mask then 1 else acc.2)

/-- The framebuffer and the collision flag after `n` sprite rows, the flag reset to 0 before them (R80). -/
def drawRows (s : State) (col row0 n : Nat) : Vector Row 32 × Byte :=
  (List.range n).foldl (drawRow s col row0) (s.fb, 0)

/-- DRW Vx, Vy, N (R80): the coordinates are read before VF is written (D13). -/
def execDrw (x y : Reg) (n : Nibble) (s : State) : Host.Outcome State Fault Refusal :=
  let out := drawRows s (s.spriteCol x) (s.spriteRow y) n.toNat
  .next (s.guardRange n.toNat ({ s with fb := out.1 }.setV VF out.2))

end Sys2Proof.Machine
end

