-- ==== Sys2Proof/Machine/Index.lean ====
section
/-! DEFINITION. Index-register and memory-transfer instructions (43_index_memory.md). -/

namespace Sys2Proof.Machine

/-- LD I, NNN (R108). -/
def execLdI (nnn : Addr) (s : State) : Host.Outcome State Fault Refusal :=
  .next { s with I := addrOf nnn }

/-- ADD I, Vx (R109): modulo 2^16, VF not written. -/
def execAddI (x : Reg) (s : State) : Host.Outcome State Fault Refusal :=
  .next { s with I := s.I + (s.getV x).zeroExtend 16 }

/-- LD F, Vx (R110). -/
def execLdF (x : Reg) (s : State) : Host.Outcome State Fault Refusal :=
  .next { s with I := glyphAddr (s.getV x) }

/-- LD [I], Vx (R111). -/
def execLdMemRegs (x : Reg) (s : State) : Host.Outcome State Fault Refusal :=
  .next (s.guardRange (x.val + 1)
    { s with mem := s.mem.storeBytes s.I.toNat (s.regsUpTo x), I := s.bulkIndex x })

/-- LD Vx, [I] (R112). -/
def execLdRegsMem (x : Reg) (s : State) : Host.Outcome State Fault Refusal :=
  .next (s.guardRange (x.val + 1) { s with v := s.loadedRegs x, I := s.bulkIndex x })

/-- LD B, Vx (R113). -/
def execLdB (x : Reg) (s : State) : Host.Outcome State Fault Refusal :=
  .next (s.guardRange 3 { s with mem := s.mem.storeBytes s.I.toNat (bcdDigits (s.getV x)) })

end Sys2Proof.Machine
end

