-- ==== Sys2Proof/Machine/Input.lean ====
section
/-! DEFINITION. Input instructions (45_input.md): recognised and without effect; pc stays A + 2. -/

namespace Sys2Proof.Machine

/-- SKP Vx (R118): a no-op. -/
def execSkp (_x : Reg) (s : State) : Host.Outcome State Fault Refusal := .next s

/-- SKNP Vx (R119): a no-op. -/
def execSknp (_x : Reg) (s : State) : Host.Outcome State Fault Refusal := .next s

/-- LD Vx, K (R120): a no-op; it does not wait. -/
def execLdVxK (_x : Reg) (s : State) : Host.Outcome State Fault Refusal := .next s

end Sys2Proof.Machine
end

