-- ==== Sys2Proof/Machine/Unknown.lean ====
section
/-! DEFINITION. Unknown words (30_encoding.md R73): no state changes but the fetch advance of pc. -/

namespace Sys2Proof.Machine

/-- An unknown word of group 0 (R73). -/
def execUnknown0 (_nnn : Addr) (s : State) : Host.Outcome State Fault Refusal := .next s

/-- An unknown word of group 8 (R73). -/
def execUnknown8 (_x _y : Reg) (_n : Nibble) (s : State) : Host.Outcome State Fault Refusal := .next s

/-- An unknown word of group E (R73). -/
def execUnknownE (_x : Reg) (_nn : Byte) (s : State) : Host.Outcome State Fault Refusal := .next s

/-- An unknown word of group F (R73). -/
def execUnknownF (_x : Reg) (_nn : Byte) (s : State) : Host.Outcome State Fault Refusal := .next s

end Sys2Proof.Machine
end

