-- ==== Sys2Proof/Machine/Scheduler.lean ====
section
/-! DEFINITION. The execution scheduler (70_reset_and_hazards.md R140 to R142) and the tick unit
(60_exceptions.md R130). -/

namespace Sys2Proof.Machine

/-- `P_insn`: 1/IPS second (R140). -/
def State.insnPeriod (s : State) : Rat := 1 / s.cfg.ips

/-- `P_tick`: 1/60 second, independent of the instruction rate (R140). -/
def tickPeriod : Rat := 1 / 60

/-- One CLOCK sample: a time that is no earlier than the sample before it, and otherwise free (R41;
log 4). -/
def State.sample (s : State) : State :=
  { s with
    now          := s.now + (Config.clockAdvance s.clockSamples : Rat)
    clockSamples := s.clockSamples + 1 }

/-- A timer decremented by exactly 1 while above 0 (R25, R130). -/
def countDown (b : Byte) : Byte := if b.toNat > 0 then b - 1 else b

/-- `Tick()` (R130): the FRAME record holds the values before the decrement. -/
def State.tick (s : State) : State :=
  { s with
    frames := { rows := s.fb, dt := s.dt, st := s.st } :: s.frames
    st     := countDown s.st
    dt     := countDown s.dt
    dTick  := s.dTick + tickPeriod }

/-- The normal end of a run (R141). -/
def State.halt (s : State) : State := { s with runState := .halted, phase := .stopped }

/-- The end of the execute phase: the wait phase follows, unless the instruction took the fault entry
(R125, R141). -/
def State.endExecute (s : State) : State :=
  match s.phase with
  | .stopped => s
  | _ => { s with phase := .wait }

/-- START's effect, at the clock sample just taken (R140). The scheduler is then at the top of its loop
(log 6). -/
def State.started (s : State) : State :=
  { s with
    t0       := s.now
    dInsn    := s.now + s.insnPeriod
    dTick    := s.now + tickPeriod
    runState := .running
    phase    := .exec }

/-- The loop check and, if it passes, one instruction step (R141, R75): fetch at A, advance pc, decode,
execute. -/
def insnSlot (s : State) : Host.Outcome State Fault Refusal :=
  if s.pc.toNat ≥ Config.haltPc then .next s.halt
  else
    match exec (decode s.cfg.group0Decode s.fetchWord) s.advance with
    | .next t => .next t.endExecute
    | .fault r => .fault r
    | .refused r => .refused r

/-- One turn of the wait phase, at the clock sample just taken: the instruction deadline is checked first;
a deadline is advanced by its interval (R142). -/
def State.poll (s : State) : State :=
  if s.dInsn ≤ s.now then { s with dInsn := s.dInsn + s.insnPeriod, phase := .exec }
  else if s.dTick ≤ s.now then s.tick
  else s

/-- One turn of the wait phase (R142). -/
def waitTurn (s : State) : Host.Outcome State Fault Refusal := .next s.sample.poll

end Sys2Proof.Machine
end

