-- ==== Sys2Proof/Machine/HostPorts.lean ====
section
/-! DEFINITION. The host's side of the block (10_state.md R38 to R45; 70_reset_and_hazards.md R136 to R140). -/

namespace Sys2Proof.Machine

/-- The reset sequence, given the FONT to load (R136, R46): every cell of the font table is written with
it. The latches are those of Config.resetLatches with this FONT (log 17). -/
def State.resetWith (font : Vector Byte 80) : State :=
  { State.reset with
    mem := Memory.storeBytes [] Config.fontBase font.toList
    cfg := { Config.resetLatches with font := font } }

/-- A new reset sequence of the host (R126, R136). What is outside the block goes on: the pending
transactions, the clock, and the random source, whose draws are never repeated (R36, R41). -/
def State.resetAgain (s : State) (font : Vector Byte 80) : State :=
  { State.resetWith font with
    hostIn       := s.hostIn
    rngDraws     := s.rngDraws
    now          := s.now
    clockSamples := s.clockSamples }

/-- The bytes LOAD stores: those that fit from 0x200 up to and including 0xFFF; the rest are dropped,
unreported (R138). -/
def loadable (bytes : List Byte) : List Byte :=
  bytes.take (Config.memSize - Config.progBase)

/-- Take one transaction (R38, R39, R40, R136). -/
def takeRequest (r : HostRequest) (s : State) : Host.Outcome State Fault Refusal :=
  match r with
  | .config l =>
    if s.runState ≠ .idle then .refused .notIdle
    else if l.ips = 0 then .refused .configIpsZero
    else .next { s with cfg := l }
  | .load bytes =>
    if s.runState ≠ .idle then .refused .notIdle
    else if s.loaded then .refused .secondLoad
    else .next { s with mem := s.mem.storeBytes Config.progBase (loadable bytes), loaded := true }
  | .start =>
    if s.runState ≠ .idle then .refused .notIdle
    else if s.cfg.ips = 0 then .refused .startIpsZero
    else .next s.sample.started
  | .reset font => .next (s.resetAgain font)

/-- A step while no run is in progress: the oldest pending transaction is taken. With none pending, an
IDLE block waits as it is, and a block whose run has ended has no next step
(93_implementation_defined.md, `stuck`; log 11). -/
def hostTurn (s : State) : Host.Outcome State Fault Refusal :=
  match s.hostIn with
  | r :: rest => takeRequest r { s with hostIn := rest }
  | [] =>
    match s.runState with
    | .idle    => .next s
    | .halted  => .fault .runHalted
    | .faulted => .fault .runFaulted
    | .running => .fault .schedulerStopped

/-- The STATUS port: run_state, fault_cause and fault_pc, readable at any time (R44). -/
def State.statusPort (s : State) : RunState × Byte × Word := (s.runState, s.faultCause, s.faultPc)

/-- The STATE port: the whole state, readable only while no run is in progress (R45). -/
def State.statePort (s : State) : Option State := if s.runState = .running then none else some s

end Sys2Proof.Machine
end

