-- ==== Sys2Proof/Machine/Step.lean ====
section
/-! DEFINITION. One step: while a run is in progress, one turn of the scheduler's loop (its check and one
instruction, or one turn of its wait phase, R141, R142); otherwise one transaction of the host (log 6). -/

namespace Sys2Proof.Machine

def step (s : State) : Host.Outcome State Fault Refusal :=
  match s.runState with
  | .running =>
    match s.phase with
    | .exec    => insnSlot s
    | .wait    => waitTurn s
    | .stopped => .fault .schedulerStopped
  | .idle | .halted | .faulted => hostTurn s

/-- The instruction whose table bits are `w`, stored where the next step fetches, high byte first (R50), in
a running block at the top of its loop. It stands for LOAD and START (log 15). -/
def State.withFetchWord (s : State) (nbits w : Nat) : State :=
  let word := BitVec.ofNat 16 (w % 2 ^ nbits)
  let pc := if s.pc.toNat < Config.haltPc then s.pc else 0x200
  { s with
    mem      := s.mem.storeBytes pc.toNat [hiByte word, loByte word]
    pc       := pc
    runState := .running
    phase    := .exec }

end Sys2Proof.Machine
end

