-- ==== Sys2Proof/Safety.lean ====
section
/-! DEFINITION. The terms claims use: the invariants of the machine, what an instruction may write, when it
faults, and a sprite row's place. -/

namespace Sys2Proof.Machine

/-! ## Invariants -/

/-- The invariant of the machine's state, in every state a run reaches. -/
structure State.Inv (s : State) : Prop where
  /-- Memory is in its canonical form (R30, R47). -/
  memCanonical : s.mem.wf
  /-- "depth never exceeds 16" (R23). -/
  depth        : s.sp ≤ 16
  /-- A stored return address is A + 2 for a call fetched at A ≤ 0xFFE (R23, R88). -/
  entries      : ∀ k (h : k < 16), k < s.sp → s.stack[k].toNat ≤ 0x1000
  /-- pc does not wrap (R20, R22). -/
  pcBound      : s.pc.toNat ≤ 0x10FE
  /-- The scheduler's loop is running exactly while run_state is RUNNING (R125, R140, R141). -/
  phaseRuns    : s.runState = .running ↔ s.phase ≠ .stopped
  /-- fault_cause is nonzero exactly after a fault (R35, R122). -/
  causeFaulted : s.runState = .faulted ↔ s.faultCause ≠ 0
  /-- fault_cause is a code of R122. -/
  causeCode    : s.faultCause.toNat ≤ 3
  /-- fault_pc is 0 when there is no fault (R35). -/
  noFaultPc    : s.runState ≠ .faulted → s.faultPc = 0
  /-- A recorded fault_pc is a fetch address, at most 0xFFE (R35, R75). -/
  faultPcBound : s.faultPc.toNat ≤ 0xFFE
  /-- No run takes place with IPS = 0 (R33). -/
  ipsPositive  : s.runState ≠ .idle → 1 ≤ s.cfg.ips

/-- The scheduler's deadlines, in every state a run reaches. With k instruction deadlines passed and j ticks
performed (each has its FRAME record) since START, D_insn = t0 + (k + 1)/IPS and D_tick = t0 + (j + 1)/60
(R140, R142), and no tick has come before an instruction whose deadline is no later than the tick's own:
tick j came while `j·IPS < 60·(k + 1)` (R145 (d), with the instructions numbered from 0). Before START no
tick has come, and IPS is positive in a run. -/
structure State.SchedInv (s : State) : Prop where
  /-- No run takes place with IPS = 0 (R33). -/
  ipsPositive : s.runState ≠ .idle → 1 ≤ s.cfg.ips
  /-- Ticks happen only in a run (R130, R142). -/
  idleNoTick  : s.runState = .idle → s.frames = []
  /-- The deadlines and the order of ticks and instructions (R140, R142, R145). -/
  deadlines   : s.runState ≠ .idle → ∃ k : Nat,
    s.dInsn = s.t0 + (k + 1 : Rat) / s.cfg.ips ∧
    s.dTick = s.t0 + (s.frames.length + 1 : Rat) / 60 ∧
    s.frames.length * s.cfg.ips < 60 * (k + 1)

/-! ## What an instruction may write (R16, R17, R19, R26, R29, R48, R52) -/

/-- The registers an instruction may write (R16). -/
def mayWriteReg : Instr → Reg → Bool
  | .ldImm x _, r | .addImm x _, r | .ldReg x _, r | .or x _, r | .and x _, r | .xor x _, r
  | .rnd x _, r | .ldVxDt x, r => r == x
  | .addReg x _, r | .sub x _, r | .subn x _, r | .shr x _, r | .shl x _, r => r == x || r == VF
  | .drw _ _ _, r => r == VF
  | .ldRegsMem x, r => decide (r ≤ x)
  | _, _ => false

/-- The instructions that write VF as a flag (R17). -/
def definesFlag : Instr → Bool
  | .addReg _ _ | .sub _ _ | .subn _ _ | .shr _ _ | .shl _ _ | .drw _ _ _ => true
  | _ => false

/-- The instructions that may write I (R19). -/
def mayWriteI : Instr → Bool
  | .ldI _ | .addI _ | .ldF _ | .ldMemRegs _ | .ldRegsMem _ => true
  | _ => false

/-- The instructions that may change pc in their execute phase: the jumps, CALL, RET and the skips (R21). -/
def mayWritePc : Instr → Bool
  | .jp _ | .jpV0 _ | .call _ | .ret _ _ | .seImm _ _ | .sneImm _ _ | .seReg _ _ _ | .sneReg _ _ _ => true
  | _ => false

/-- The instructions that reach the return stack (R23, R48). -/
def reachesStack : Instr → Bool
  | .call _ | .ret _ _ => true
  | _ => false

/-- The instructions that write the framebuffer (R29). -/
def writesDisplay : Instr → Bool
  | .cls _ _ | .drw _ _ _ => true
  | _ => false

/-- The instructions that store to memory (R52). -/
def storesMemory : Instr → Bool
  | .ldMemRegs _ | .ldB _ => true
  | _ => false

/-! ## When an instruction faults (R122, R127) -/

/-- The number of bytes an instruction reaches through I (R52). -/
def bytesThroughI : Instr → Nat
  | .drw _ _ n => n.toNat
  | .ldB _ => 3
  | .ldMemRegs x | .ldRegsMem x => x.val + 1
  | _ => 0

/-- The fault condition of R122 that an instruction meets in its execute phase, if any (R127). -/
def faultCondition (i : Instr) (s : State) : Option FaultKind :=
  match i with
  | .call _ => if s.cfg.stackErrorPolicy = .halt ∧ 16 ≤ s.sp then some .stackOverflow else none
  | .ret _ _ => if s.cfg.stackErrorPolicy = .halt ∧ s.sp = 0 then some .stackUnderflow else none
  | _ => if bytesThroughI i ≠ 0 ∧ 0xFFF < s.I.toNat + (bytesThroughI i - 1) then some .memoryOutOfRange else none

/-! ## Effects of one shape -/

/-- Sprite row position `p` (row0 + r) lands on framebuffer row `k` (R82). -/
def LandsOn (policy : VerticalPolicy) (p : Nat) (k : Fin 32) : Prop :=
  match policy with
  | .wrap => k.val = p % 32
  | .clip => k.val = p

/-- The state `s` with the fault of R125 recorded: the cause, the address A of the instruction whose execute
phase it is (pc holds A + 2, R21), and the end of the loop. -/
def Faulted (s : State) (cause : Byte) : State :=
  { s with runState := .faulted, faultCause := cause, faultPc := s.pc - 2, phase := .stopped }

/-- The block is at the top of the scheduler's loop with an instruction to execute (R141). -/
def AtInstruction (s : State) : Prop := s.runState = .running ∧ s.phase = .exec ∧ s.pc.toNat < 0xFFF

/-- The cell at `a` holds `b` once FX55 has stored V0 to Vx at I: the register stored there, or the byte from
before outside the stored cells (R111). -/
def CellAfterDump (s : State) (x : Reg) (a : Nat) (b : Byte) : Prop :=
  (∃ r : Reg, r ≤ x ∧ a = s.I.toNat + r.val ∧ b = s.getV r) ∨
  ((a < s.I.toNat ∨ s.I.toNat + x.val < a) ∧ b = s.readMem a)

/-- The cell at `a` holds `b` once FX33 has stored the digits of Vx at I: the digit stored there, or the byte from
before outside the stored cells (R113). -/
def CellAfterDigits (s : State) (x : Reg) (a : Nat) (b : Byte) : Prop :=
  (a = s.I.toNat ∧ b.toNat = (s.getV x).toNat / 100) ∨
  (a = s.I.toNat + 1 ∧ b.toNat = (s.getV x).toNat / 10 % 10) ∨
  (a = s.I.toNat + 2 ∧ b.toNat = (s.getV x).toNat % 10) ∨
  ((a < s.I.toNat ∨ s.I.toNat + 2 < a) ∧ b = s.readMem a)

/-- Register `x` receives `b` and nothing else changes. -/
def OnlyReg (s t : State) (x : Reg) (b : Byte) : Prop :=
  t.getV x = b ∧ (∀ r, r ≠ x → t.getV r = s.getV r) ∧ t = { s with v := t.v } ∧
  ∀ a, t.readMem a = s.readMem a

/-- Register `x` receives `b`, VF receives `flag` last, and nothing else changes (R95). -/
def OnlyRegAndFlag (s t : State) (x : Reg) (b flag : Nat) : Prop :=
  (t.getV VF).toNat = flag ∧ (x ≠ VF → (t.getV x).toNat = b) ∧
  (∀ r, r ≠ x → r ≠ VF → t.getV r = s.getV r) ∧ t = { s with v := t.v } ∧
  ∀ a, t.readMem a = s.readMem a

end Sys2Proof.Machine
end

