-- ==== Sys2Proof/Certificates/Slice0/Obligations.lean ====
section
/-! DEFINITION. The statements for the provers. Each docstring names the rules of spec/ a statement formalises. -/

open Sys2Proof Sys2Proof.Machine

/-! ## Encoding -/

/-- Words written out from R72 decode to the instruction each stands for (30_encoding.md R72). -/
def Obligations.WrittenOutWordsDecode : Prop :=
  decode .exact 0b0000000011100000 = .cls 0 0xE ∧
  decode .exact 0b0000000011101110 = .ret 0 0xE ∧
  decode .exact 0b0001001000110100 = .jp 0x234 ∧
  decode .exact 0b0110000000000101 = .ldImm 0 0x05 ∧
  decode .exact 0b1000000000010100 = .addReg 0 1 ∧
  decode .exact 0b1101000100100011 = .drw 1 2 3 ∧
  decode .exact 0b1110001110011110 = .skp 3 ∧
  decode .exact 0b1111001001100101 = .ldRegsMem 2 ∧
  decode .exact 0b1111010100010101 = .ldDtVx 5

/-- R66: the six fields of a word re-assemble to the word, NN is Y and N together, and NNN is X and NN
together. -/
def Obligations.FieldsReassembleTheWord : Prop :=
  ∀ w : Word,
    w = ((fieldsOf w).op.zeroExtend 16 <<< 12 ||| (regBits (fieldsOf w).x).zeroExtend 16 <<< 8 |||
      (regBits (fieldsOf w).y).zeroExtend 16 <<< 4 ||| (fieldsOf w).n.zeroExtend 16) ∧
    (fieldsOf w).nn = ((regBits (fieldsOf w).y).zeroExtend 8 <<< 4 ||| (fieldsOf w).n.zeroExtend 8) ∧
    (fieldsOf w).nnn = ((regBits (fieldsOf w).x).zeroExtend 12 <<< 8 ||| (fieldsOf w).nn.zeroExtend 12)

/-- Decode and encode agree, for every instruction, every word and both matches of group 0
(30_encoding.md R63 to R74). -/
def Obligations.DecodeAndEncodeAgree : Prop :=
  (∀ g i, WellFormed g i = true → decode g (encode i) = i) ∧
  ∀ g w, WellFormed g (decode g w) = true ∧ encode (decode g w) = w

/-- Every word that matches a row of the opcode map, by the row's mask, decodes to the row's instruction with
the fields of R64 (30_encoding.md R68 to R72). -/
def Obligations.DecodeFollowsTheOpcodeMap : Prop :=
  ∀ (g : Group0Decode) (w : Word),
    (w = 0x00E0 → decode .exact w = .cls 0 0xE) ∧
    (w = 0x00EE → decode .exact w = .ret 0 0xE) ∧
    (w &&& 0xF00F = 0x0000 → decode .nibble w = .cls (fieldsOf w).x (fieldsOf w).y) ∧
    (w &&& 0xF00F = 0x000E → decode .nibble w = .ret (fieldsOf w).x (fieldsOf w).y) ∧
    (w &&& 0xF000 = 0x1000 → decode g w = .jp (fieldsOf w).nnn) ∧
    (w &&& 0xF000 = 0x2000 → decode g w = .call (fieldsOf w).nnn) ∧
    (w &&& 0xF000 = 0x3000 → decode g w = .seImm (fieldsOf w).x (fieldsOf w).nn) ∧
    (w &&& 0xF000 = 0x4000 → decode g w = .sneImm (fieldsOf w).x (fieldsOf w).nn) ∧
    (w &&& 0xF000 = 0x5000 → decode g w = .seReg (fieldsOf w).x (fieldsOf w).y (fieldsOf w).n) ∧
    (w &&& 0xF000 = 0x6000 → decode g w = .ldImm (fieldsOf w).x (fieldsOf w).nn) ∧
    (w &&& 0xF000 = 0x7000 → decode g w = .addImm (fieldsOf w).x (fieldsOf w).nn) ∧
    (w &&& 0xF00F = 0x8000 → decode g w = .ldReg (fieldsOf w).x (fieldsOf w).y) ∧
    (w &&& 0xF00F = 0x8001 → decode g w = .or (fieldsOf w).x (fieldsOf w).y) ∧
    (w &&& 0xF00F = 0x8002 → decode g w = .and (fieldsOf w).x (fieldsOf w).y) ∧
    (w &&& 0xF00F = 0x8003 → decode g w = .xor (fieldsOf w).x (fieldsOf w).y) ∧
    (w &&& 0xF00F = 0x8004 → decode g w = .addReg (fieldsOf w).x (fieldsOf w).y) ∧
    (w &&& 0xF00F = 0x8005 → decode g w = .sub (fieldsOf w).x (fieldsOf w).y) ∧
    (w &&& 0xF00F = 0x8006 → decode g w = .shr (fieldsOf w).x (fieldsOf w).y) ∧
    (w &&& 0xF00F = 0x8007 → decode g w = .subn (fieldsOf w).x (fieldsOf w).y) ∧
    (w &&& 0xF00F = 0x800E → decode g w = .shl (fieldsOf w).x (fieldsOf w).y) ∧
    (w &&& 0xF000 = 0x9000 → decode g w = .sneReg (fieldsOf w).x (fieldsOf w).y (fieldsOf w).n) ∧
    (w &&& 0xF000 = 0xA000 → decode g w = .ldI (fieldsOf w).nnn) ∧
    (w &&& 0xF000 = 0xB000 → decode g w = .jpV0 (fieldsOf w).nnn) ∧
    (w &&& 0xF000 = 0xC000 → decode g w = .rnd (fieldsOf w).x (fieldsOf w).nn) ∧
    (w &&& 0xF000 = 0xD000 → decode g w = .drw (fieldsOf w).x (fieldsOf w).y (fieldsOf w).n) ∧
    (w &&& 0xF0FF = 0xE09E → decode g w = .skp (fieldsOf w).x) ∧
    (w &&& 0xF0FF = 0xE0A1 → decode g w = .sknp (fieldsOf w).x) ∧
    (w &&& 0xF0FF = 0xF007 → decode g w = .ldVxDt (fieldsOf w).x) ∧
    (w &&& 0xF0FF = 0xF00A → decode g w = .ldVxK (fieldsOf w).x) ∧
    (w &&& 0xF0FF = 0xF015 → decode g w = .ldDtVx (fieldsOf w).x) ∧
    (w &&& 0xF0FF = 0xF018 → decode g w = .ldStVx (fieldsOf w).x) ∧
    (w &&& 0xF0FF = 0xF01E → decode g w = .addI (fieldsOf w).x) ∧
    (w &&& 0xF0FF = 0xF029 → decode g w = .ldF (fieldsOf w).x) ∧
    (w &&& 0xF0FF = 0xF033 → decode g w = .ldB (fieldsOf w).x) ∧
    (w &&& 0xF0FF = 0xF055 → decode g w = .ldMemRegs (fieldsOf w).x) ∧
    (w &&& 0xF0FF = 0xF065 → decode g w = .ldRegsMem (fieldsOf w).x)

/-- R73: an unknown word changes no state except the fetch advance of pc by 2. The unknown words are those of
the rule's list, under each match of group 0; and whatever an unknown constructor holds, its handler
leaves the state as it is. -/
def Obligations.UnknownWordsAreNoOps : Prop :=
  (∀ s, AtInstruction s →
    ((s.cfg.group0Decode = .exact ∧ s.fetchWord &&& 0xF000 = 0x0000 ∧ s.fetchWord ≠ 0x00E0 ∧
        s.fetchWord ≠ 0x00EE) ∨
      (s.cfg.group0Decode = .nibble ∧ s.fetchWord &&& 0xF000 = 0x0000 ∧ (fieldsOf s.fetchWord).n ≠ 0x0 ∧
        (fieldsOf s.fetchWord).n ≠ 0xE) ∨
      (s.fetchWord &&& 0xF000 = 0x8000 ∧
        (fieldsOf s.fetchWord).n ∈ [0x8#4, 0x9#4, 0xA#4, 0xB#4, 0xC#4, 0xD#4, 0xF#4]) ∨
      (s.fetchWord &&& 0xF000 = 0xE000 ∧ (fieldsOf s.fetchWord).nn ∉ [0x9E#8, 0xA1#8]) ∨
      (s.fetchWord &&& 0xF000 = 0xF000 ∧ (fieldsOf s.fetchWord).nn ∉
        [0x07#8, 0x0A#8, 0x15#8, 0x18#8, 0x1E#8, 0x29#8, 0x33#8, 0x55#8, 0x65#8])) →
    step s = .next { s with pc := s.pc + 2, phase := .wait }) ∧
  ∀ s x y n nn nnn,
    exec (.unknown0 nnn) s = .next s ∧ exec (.unknown8 x y n) s = .next s ∧
    exec (.unknownE x nn) s = .next s ∧ exec (.unknownF x nn) s = .next s

/-! ## The step and the end of a run -/

/-- With an instruction to execute at A = pc, a step fetches the word at A, high byte first, advances pc by 2,
executes the decoded instruction on that state, and, unless the instruction ended the run, goes on to the
wait phase (30_encoding.md R75; 70_reset_and_hazards.md R141). That the end of the execute phase sees in phase
whether the scheduler ended the run is the model's reading (log 8). -/
def Obligations.StepRunsTheDecodedInstruction : Prop :=
  ∀ s i, AtInstruction s →
    decode s.cfg.group0Decode (wordOf (s.readMem s.pc.toNat) (s.readMem (s.pc.toNat + 1))) = i →
    ∃ t, exec i { s with pc := s.pc + 2 } = .next t ∧
      step s = .next (if t.phase = .stopped then t else { t with phase := .wait })

/-- At the top of the loop with pc at 0xFFF or above the run ends HALTED, with no other change
(70_reset_and_hazards.md R141). -/
def Obligations.LoopCheckHaltsTheRun : Prop :=
  ∀ s, s.runState = .running → s.phase = .exec → 0xFFF ≤ s.pc.toNat →
    step s = .next { s with runState := .halted, phase := .stopped }

/-- An instruction that meets a fault condition has no effect but pc = A + 2, and the run ends FAULTED with its
code and with fault_pc = A; no wait phase follows (60_exceptions.md R125). -/
def Obligations.FaultingStepIsPrecise : Prop :=
  ∀ s k, AtInstruction s →
    faultCondition (decode s.cfg.group0Decode s.fetchWord) { s with pc := s.pc + 2 } = some k →
    step s = .next { s with
      pc         := s.pc + 2
      runState   := .faulted
      faultCause := match k with
        | .stackOverflow => 1
        | .stackUnderflow => 2
        | .memoryOutOfRange => 3
      faultPc    := s.pc
      phase      := .stopped }

/-- The fault conditions are exactly those listed (60_exceptions.md R122). An instruction that meets one takes
the fault entry and changes nothing else; any other leaves the status record and the phase as they are. That
the fault entry and the stack policy act inside the meaning is the model's reading (log 8). -/
def Obligations.OnlyTheListedConditionsFault : Prop :=
  ∀ i s, ∃ t, exec i s = .next t ∧
    (faultCondition i s = some .stackOverflow → t = Faulted s 1) ∧
    (faultCondition i s = some .stackUnderflow → t = Faulted s 2) ∧
    (faultCondition i s = some .memoryOutOfRange → t = Faulted s 3) ∧
    (faultCondition i s = none → t.runState = s.runState ∧ t.faultCause = s.faultCause ∧
      t.faultPc = s.faultPc ∧ t.phase = s.phase)

/-- After HALTED or FAULTED the block has no next step, and CONFIG, LOAD and START are refused; only a new
reset sequence runs again (60_exceptions.md R126; 70_reset_and_hazards.md R143; `stuck` of
93_implementation_defined.md O3). That an IDLE block with no pending transaction waits as it is, is the
model's choice (log 11); so are the LOAD mark and the list of FRAME records (logs 10, 14), the list of
transactions, refused when looked at (log 9), and a reset request that carries its FONT, writes it to cfg.FONT
and leaves the rest of the list, the clock and the count of draws as they are (log 17). -/
def Obligations.OnlyAResetFollowsAnEndedRun : Prop :=
  ∀ s,
    (s.runState = .idle → s.hostIn = [] → step s = .next s) ∧
    (s.runState = .halted → s.hostIn = [] → step s = .fault .runHalted) ∧
    (s.runState = .faulted → s.hostIn = [] → step s = .fault .runFaulted) ∧
    (s.runState = .halted ∨ s.runState = .faulted →
      (∀ l rest, s.hostIn = .config l :: rest → step s = .refused .notIdle) ∧
      (∀ bs rest, s.hostIn = .load bs :: rest → step s = .refused .notIdle) ∧
      (∀ rest, s.hostIn = .start :: rest → step s = .refused .notIdle) ∧
      ∀ font rest, s.hostIn = .reset font :: rest → ∃ t, step s = .next t ∧
        t = { State.resetWith font with
          hostIn := rest, rngDraws := s.rngDraws, now := s.now, clockSamples := s.clockSamples } ∧
        t.runState = .idle ∧ t.faultCause = 0 ∧ t.faultPc = 0 ∧ t.pc = 0x200 ∧ t.sp = 0 ∧ t.loaded = false ∧ t.frames = [] ∧
        t.cfg.font = font)

/-! ## What every instruction leaves unchanged -/

/-- Each instruction changes only what the spec's lists of writers give it (10_state.md R16, R19, R21, R23,
R26, R29; 20_memory.md R52), and none touches the latches, the deadlines, the FRAME records or the host's
input (R32, R77). The form of the random source, the clock, the transactions, the LOAD mark and the records is
the model's (logs 3, 4, 9, 10, 14). -/
def Obligations.InstructionsChangeOnlyWhatTheyMay : Prop :=
  ∀ i s, ∃ t, exec i s = .next t ∧
    (∀ r, mayWriteReg i r = false → t.getV r = s.getV r) ∧
    (mayWriteI i = false → t.I = s.I) ∧
    (mayWritePc i = false → t.pc = s.pc) ∧
    (reachesStack i = false → t.stack = s.stack ∧ t.sp = s.sp) ∧
    (writesDisplay i = false → t.fb = s.fb) ∧
    (storesMemory i = false → ∀ a, t.readMem a = s.readMem a) ∧
    ((∀ x, i ≠ .ldDtVx x) → t.dt = s.dt) ∧
    ((∀ x, i ≠ .ldStVx x) → t.st = s.st) ∧
    ((∀ x nn, i ≠ .rnd x nn) → t.rngDraws = s.rngDraws) ∧
    t.cfg = s.cfg ∧ t.t0 = s.t0 ∧ t.dInsn = s.dInsn ∧ t.dTick = s.dTick ∧ t.loaded = s.loaded ∧
    t.frames = s.frames ∧ t.hostIn = s.hostIn ∧ t.now = s.now ∧ t.clockSamples = s.clockSamples

/-- No handler reads the clock, the schedule of the timers or an input of the host: changing them before an
instruction changes nothing else after it (30_encoding.md R77). -/
def Obligations.HandlersIgnoreClockAndHost : Prop :=
  ∀ i s t0 dInsn dTick now clockSamples frames hostIn loaded, ∃ t, exec i s = .next t ∧
    exec i { s with
        t0 := t0, dInsn := dInsn, dTick := dTick, now := now, clockSamples := clockSamples,
        frames := frames, hostIn := hostIn, loaded := loaded } =
      .next { t with
        t0 := t0, dInsn := dInsn, dTick := dTick, now := now, clockSamples := clockSamples,
        frames := frames, hostIn := hostIn, loaded := loaded }

/-- An instruction that writes VF as a flag, and does not fault, writes it with exactly 0 or exactly 1
(10_state.md R17). -/
def Obligations.FlagsAreZeroOrOne : Prop :=
  ∀ i s, definesFlag i = true → faultCondition i s = none →
    ∃ t, exec i s = .next t ∧ (t.getV VF = 0 ∨ t.getV VF = 1)

/-! ## Arithmetic and logic -/

/-- R96 to R101: each writes its result to Vx and nothing else; none writes VF but as Vx. -/
def Obligations.PlainRegisterOperationsComplete : Prop :=
  ∀ s x y nn,
    (∃ t, exec (.ldImm x nn) s = .next t ∧ OnlyReg s t x nn) ∧
    (∃ t, exec (.addImm x nn) s = .next t ∧
      OnlyReg s t x (BitVec.ofNat 8 (((s.getV x).toNat + nn.toNat) % 256))) ∧
    (∃ t, exec (.ldReg x y) s = .next t ∧ OnlyReg s t x (s.getV y)) ∧
    (∃ t, exec (.or x y) s = .next t ∧ OnlyReg s t x (s.getV x ||| s.getV y)) ∧
    (∃ t, exec (.and x y) s = .next t ∧ OnlyReg s t x (s.getV x &&& s.getV y)) ∧
    (∃ t, exec (.xor x y) s = .next t ∧ OnlyReg s t x (s.getV x ^^^ s.getV y))

/-- R104, R105, R106: the wrapped sum or difference to Vx, then the carry or the no-borrow flag, computed from
the old operands, to VF; nothing else changes. -/
def Obligations.AddAndSubtractWriteTheFlagLast : Prop :=
  ∀ s x y,
    (∃ t, exec (.addReg x y) s = .next t ∧
      OnlyRegAndFlag s t x (((s.getV x).toNat + (s.getV y).toNat) % 256)
        (if (s.getV x).toNat + (s.getV y).toNat > 255 then 1 else 0)) ∧
    (∃ t, exec (.sub x y) s = .next t ∧
      OnlyRegAndFlag s t x (((s.getV x).toNat + 256 - (s.getV y).toNat) % 256)
        (if (s.getV x).toNat ≥ (s.getV y).toNat then 1 else 0)) ∧
    (∃ t, exec (.subn x y) s = .next t ∧
      OnlyRegAndFlag s t x (((s.getV y).toNat + 256 - (s.getV x).toNat) % 256)
        (if (s.getV y).toNat ≥ (s.getV x).toNat then 1 else 0))

/-- R102, R103: the value shifted is Vy when Q_SHIFT is set and Vx otherwise; the result goes to Vx, then the
bit shifted out of that value to VF; nothing else changes. -/
def Obligations.ShiftsWriteTheFlagLast : Prop :=
  ∀ s x y, ∀ b : Byte, b = (if s.cfg.qShift = true then s.getV y else s.getV x) →
    (∃ t, exec (.shr x y) s = .next t ∧ OnlyRegAndFlag s t x (b.toNat / 2) (b.toNat % 2)) ∧
    (∃ t, exec (.shl x y) s = .next t ∧ OnlyRegAndFlag s t x (b.toNat * 2 % 256) (b.toNat / 128))

/-- Vx receives the draw masked by NN, whatever byte the draw is; every bit NN clears is 0; nothing else
changes (42_alu.md R107). That a draw is Config.randByte of a counter, which advances by 1, is the model's
form of a free value (log 3). -/
def Obligations.RandomByteIsMasked : Prop :=
  ∀ s x nn, ∃ t, exec (.rnd x nn) s = .next t ∧ t.getV x = Config.randByte s.rngDraws &&& nn ∧
    t.getV x &&& ~~~nn = 0 ∧ (∀ r, r ≠ x → t.getV r = s.getV r) ∧
    t = { s with v := t.v, rngDraws := s.rngDraws + 1 } ∧ ∀ a, t.readMem a = s.readMem a

/-! ## Control transfer -/

/-- R86, R87: pc receives NNN, or NNN plus V0 (Q_JUMP false) or plus the register NNN[11:8] selects (Q_JUMP
true), not masked; nothing else changes. -/
def Obligations.JumpsComplete : Prop :=
  ∀ s (nnn : Addr),
    (∃ t, exec (.jp nnn) s = .next t ∧ t.pc.toNat = nnn.toNat ∧ t = { s with pc := t.pc } ∧
      ∀ a, t.readMem a = s.readMem a) ∧
    (s.cfg.qJump = false → ∃ t, exec (.jpV0 nnn) s = .next t ∧
      t.pc.toNat = nnn.toNat + (s.getV 0).toNat ∧ t = { s with pc := t.pc } ∧
      ∀ a, t.readMem a = s.readMem a) ∧
    (s.cfg.qJump = true → ∀ x : Reg, x.val = nnn.toNat / 256 → ∃ t, exec (.jpV0 nnn) s = .next t ∧
      t.pc.toNat = nnn.toNat + (s.getV x).toNat ∧ t = { s with pc := t.pc } ∧
      ∀ a, t.readMem a = s.readMem a)

/-- R90 to R93: pc advances by a further 2 exactly when the comparison holds; N is ignored; nothing else
changes. -/
def Obligations.SkipsComplete : Prop :=
  ∀ s x y nn n,
    exec (.seImm x nn) s = .next { s with pc := if s.getV x = nn then s.pc + 2 else s.pc } ∧
    exec (.sneImm x nn) s = .next { s with pc := if s.getV x = nn then s.pc else s.pc + 2 } ∧
    exec (.seReg x y n) s = .next { s with pc := if s.getV x = s.getV y then s.pc + 2 else s.pc } ∧
    exec (.sneReg x y n) s = .next { s with pc := if s.getV x = s.getV y then s.pc else s.pc + 2 }

/-- R88, R89, below the limits of the stack: CALL stores pc (A + 2) in the next entry and jumps; RET takes pc
from the last entry, which keeps its value; nothing else changes (41_control_flow.md R88, R89). -/
def Obligations.CallAndReturnComplete : Prop :=
  ∀ s (nnn : Addr) x y,
    (∀ h : s.sp < 16, ∃ t, exec (.call nnn) s = .next t ∧ t.pc.toNat = nnn.toNat ∧ t.sp = s.sp + 1 ∧
      t.stack[s.sp] = s.pc ∧ (∀ k (hk : k < 16), k ≠ s.sp → t.stack[k] = s.stack[k]) ∧
      t = { s with pc := t.pc, sp := t.sp, stack := t.stack } ∧ ∀ a, t.readMem a = s.readMem a) ∧
    (∀ (_ : 0 < s.sp) (h : s.sp ≤ 16), ∃ t, exec (.ret x y) s = .next t ∧ t.sp = s.sp - 1 ∧
      t.pc = s.stack[s.sp - 1] ∧ t = { s with pc := t.pc, sp := t.sp } ∧
      ∀ a, t.readMem a = s.readMem a)

/-- R123, R124: a call with 16 entries stored and a return with none change nothing themselves. Under `halt`
the run ends FAULTED with code 1 or 2; under `continue` the signal is dropped and nothing is recorded. That
the policy acts inside the meaning is the model's reading (log 8). -/
def Obligations.StackSignalsFollowThePolicy : Prop :=
  ∀ s nnn x y,
    (s.sp = 16 → s.cfg.stackErrorPolicy = .halt → exec (.call nnn) s = .next (Faulted s 1)) ∧
    (s.sp = 16 → s.cfg.stackErrorPolicy = .cont → exec (.call nnn) s = .next s) ∧
    (s.sp = 0 → s.cfg.stackErrorPolicy = .halt → exec (.ret x y) s = .next (Faulted s 2)) ∧
    (s.sp = 0 → s.cfg.stackErrorPolicy = .cont → exec (.ret x y) s = .next s)

/-- A return, from any state with the stack the call left, comes back to the instruction after the call with
the depth before it (41_control_flow.md R88, R89). -/
def Obligations.ReturnComesBackFromTheCall : Prop :=
  ∀ s t u nnn x y, s.sp < 16 → exec (.call nnn) s = .next t → u.stack = t.stack → u.sp = t.sp →
    ∃ w, exec (.ret x y) u = .next w ∧ w.pc = s.pc ∧ w.sp = s.sp

/-! ## Index register and memory -/

/-- R108, R109, R110: I receives NNN, I + Vx modulo 2^16, or 0x050 + 5·Vx with no masking; VF is not written
and nothing else changes. -/
def Obligations.IndexOperationsComplete : Prop :=
  ∀ s x (nnn : Addr),
    (∃ t, exec (.ldI nnn) s = .next t ∧ t.I.toNat = nnn.toNat ∧ t = { s with I := t.I } ∧
      ∀ a, t.readMem a = s.readMem a) ∧
    (∃ t, exec (.addI x) s = .next t ∧ t.I.toNat = (s.I.toNat + (s.getV x).toNat) % 65536 ∧
      t = { s with I := t.I } ∧ ∀ a, t.readMem a = s.readMem a) ∧
    (∃ t, exec (.ldF x) s = .next t ∧ t.I.toNat = 0x050 + (s.getV x).toNat * 5 ∧ t = { s with I := t.I } ∧
      ∀ a, t.readMem a = s.readMem a)

/-- In range, FX55 stores V0 to Vx at I to I + X, every other cell keeps its byte, and I advances by X + 1
modulo 2^16 exactly when Q_INCR is set; nothing else changes. Out of range, MemoryOutOfRange and nothing else
(43_index_memory.md R111; 60_exceptions.md R122, R125). That the fault entry acts inside the meaning is the
model's reading (log 8). -/
def Obligations.RegisterDumpStoresTheRegisters : Prop :=
  ∀ s x, s.mem.wf →
    (s.I.toNat + x.val ≤ 0xFFF → ∃ t, exec (.ldMemRegs x) s = .next t ∧
      (∀ r : Reg, r ≤ x → t.readMem (s.I.toNat + r.val) = s.getV r) ∧
      (∀ a, a < s.I.toNat ∨ s.I.toNat + x.val < a → t.readMem a = s.readMem a) ∧
      t.I.toNat = (s.I.toNat + if s.cfg.qIncr = true then x.val + 1 else 0) % 65536 ∧
      t = { s with mem := t.mem, I := t.I }) ∧
    (0xFFF < s.I.toNat + x.val → exec (.ldMemRegs x) s = .next (Faulted s 3))

/-- In range, FX65 loads V0 to Vx from I to I + X, and I advances as for FX55; nothing else changes. Out of range,
MemoryOutOfRange and nothing else (43_index_memory.md R112; 60_exceptions.md R122, R125). That the fault entry
acts inside the meaning is the model's reading (log 8). -/
def Obligations.RegisterLoadReadsMemory : Prop :=
  ∀ s x,
    (s.I.toNat + x.val ≤ 0xFFF → ∃ t, exec (.ldRegsMem x) s = .next t ∧
      (∀ r : Reg, r ≤ x → t.getV r = s.readMem (s.I.toNat + r.val)) ∧
      (∀ r : Reg, x < r → t.getV r = s.getV r) ∧
      t.I.toNat = (s.I.toNat + if s.cfg.qIncr = true then x.val + 1 else 0) % 65536 ∧
      t = { s with v := t.v, I := t.I } ∧ ∀ a, t.readMem a = s.readMem a) ∧
    (0xFFF < s.I.toNat + x.val → exec (.ldRegsMem x) s = .next (Faulted s 3))

/-- In range, FX33 stores the hundreds, tens and ones digits of Vx at I, I + 1 and I + 2; every other cell keeps
its byte and nothing else changes, I included. Out of range, MemoryOutOfRange and nothing else
(43_index_memory.md R113; 60_exceptions.md R122, R125). That the fault entry acts inside the meaning is the
model's reading (log 8). -/
def Obligations.DecimalDigitsAreStored : Prop :=
  ∀ s x, s.mem.wf →
    (s.I.toNat + 2 ≤ 0xFFF → ∃ t, exec (.ldB x) s = .next t ∧
      (t.readMem s.I.toNat).toNat = (s.getV x).toNat / 100 ∧
      (t.readMem (s.I.toNat + 1)).toNat = (s.getV x).toNat / 10 % 10 ∧
      (t.readMem (s.I.toNat + 2)).toNat = (s.getV x).toNat % 10 ∧
      (∀ a, a < s.I.toNat ∨ s.I.toNat + 2 < a → t.readMem a = s.readMem a) ∧
      t = { s with mem := t.mem }) ∧
    (0xFFF < s.I.toNat + 2 → exec (.ldB x) s = .next (Faulted s 3))

/-- With I = a at both, and no other write to the cells in between, FX65 after FX55 with the same X restores V0 to
Vx exactly; each of the two adds X + 1 to I exactly when Q_INCR is set, so with Q_INCR false the load may
follow the dump immediately (43_index_memory.md R111, R112, and R114, which the spec derives from them). -/
def Obligations.DumpThenLoadRestoresTheRegisters : Prop :=
  ∀ s t x, s.mem.wf → s.I.toNat + x.val ≤ 0xFFF → exec (.ldMemRegs x) s = .next t →
    (∀ u, u.I = s.I → (∀ r : Reg, r ≤ x → u.readMem (s.I.toNat + r.val) = t.readMem (s.I.toNat + r.val)) →
      ∃ w, exec (.ldRegsMem x) u = .next w ∧ (∀ r : Reg, r ≤ x → w.getV r = s.getV r) ∧
        w.I.toNat = (u.I.toNat + if u.cfg.qIncr = true then x.val + 1 else 0) % 65536) ∧
    t.I.toNat = (s.I.toNat + if s.cfg.qIncr = true then x.val + 1 else 0) % 65536 ∧
    (s.cfg.qIncr = false → ∃ w, exec (.ldRegsMem x) t = .next w ∧ w.v = s.v ∧ w.I = s.I)

/-- An instruction that reaches memory through I and whose range passes 0xFFF raises MemoryOutOfRange and changes
nothing else, whichever instruction it is; a DXYN of 0 rows never does (20_memory.md R54; 60_exceptions.md
R122, R125). That the fault entry acts inside the meaning is the model's reading (log 8). -/
def Obligations.OutOfRangeAccessHasNoEffect : Prop :=
  (∀ i s, bytesThroughI i ≠ 0 → 0xFFF < s.I.toNat + bytesThroughI i - 1 →
    exec i s = .next (Faulted s 3)) ∧
  ∀ s x y, ∃ t, exec (.drw x y 0) s = .next t ∧ t.runState = s.runState ∧ t.faultCause = s.faultCause

/-- A store is seen by the next fetch, wherever it is: after an FX55 or an FX33 that does not fault, the word
fetched at any p is made, high byte first, of the byte at p and the byte at p + 1, each the byte stored there
or, outside the stored cells, the byte from before (20_memory.md R62, R50). -/
def Obligations.StoredBytesAreFetched : Prop :=
  ∀ (s : State) x, s.mem.wf →
    (s.I.toNat + x.val ≤ 0xFFF → ∃ t, exec (.ldMemRegs x) s = .next t ∧
      ∀ (p : Word) (hi lo : Byte), CellAfterDump s x p.toNat hi → CellAfterDump s x (p.toNat + 1) lo →
        State.fetchWord { t with pc := p } = hi ++ lo) ∧
    (s.I.toNat + 2 ≤ 0xFFF → ∃ t, exec (.ldB x) s = .next t ∧
      ∀ (p : Word) (hi lo : Byte), CellAfterDigits s x p.toNat hi → CellAfterDigits s x (p.toNat + 1) lo →
        State.fetchWord { t with pc := p } = hi ++ lo)

/-! ## Display -/

/-- R79: every framebuffer row is 0 and nothing else changes, VF included. -/
def Obligations.ClearDisplayCompletes : Prop :=
  ∀ s x y, ∃ t, exec (.cls x y) s = .next t ∧ (∀ k, t.fb.get k = 0) ∧ t = { s with fb := t.fb } ∧
    ∀ a, t.readMem a = s.readMem a

/-- R81: bit k of a sprite byte lands at column col + 7 - k, and a pixel whose column would be 64 or more is
dropped: the mask's pixel at column c is the sprite's bit col + 7 - c, for c from col to col + 7, and 0
elsewhere. -/
def Obligations.RowMaskPlacesThePixels : Prop :=
  ∀ (b : Byte) (col c : Nat), col < 64 → c < 64 →
    (rowMask b col).getLsbD (63 - c) = (decide (col ≤ c ∧ c ≤ col + 7) && b.getLsbD (col + 7 - c))

/-- R80, R82, R83: in range, each drawn row of DXYN is XORed with its mask, every other framebuffer row keeps its
pixels, VF ends as 1 exactly when some drawn row turned a lit pixel off and as 0 otherwise, and nothing
else changes. The coordinates and the sprite bytes are those before the instruction. -/
def Obligations.DrawXorsTheSprite : Prop :=
  ∀ s x y (n : Nibble), ∀ col row0 : Nat, col = (s.getV x).toNat % 64 → row0 = (s.getV y).toNat % 32 →
    n = 0 ∨ s.I.toNat + n.toNat - 1 ≤ 0xFFF →
    ∃ t, exec (.drw x y n) s = .next t ∧
      (∀ r k, r < n.toNat → LandsOn s.cfg.verticalPolicy (row0 + r) k →
        t.fb.get k = s.fb.get k ^^^ rowMask (s.readMem (s.I.toNat + r)) col) ∧
      (∀ k, (∀ r, r < n.toNat → ¬ LandsOn s.cfg.verticalPolicy (row0 + r) k) →
        t.fb.get k = s.fb.get k) ∧
      (t.getV VF = 1 ↔ ∃ r k, r < n.toNat ∧ LandsOn s.cfg.verticalPolicy (row0 + r) k ∧
        s.fb.get k &&& rowMask (s.readMem (s.I.toNat + r)) col ≠ 0) ∧
      (t.getV VF = 0 ∨ t.getV VF = 1) ∧
      (∀ q, q ≠ VF → t.getV q = s.getV q) ∧ t = { s with v := t.v, fb := t.fb } ∧
      ∀ a, t.readMem a = s.readMem a

/-- A second DXYN right after the first, with both coordinates as before, restores every framebuffer row
(R84, first clause). It sets VF exactly when it turns a lit pixel off (R83): when some drawn row's mask has
a pixel that was dark before the first; where the first turned no lit pixel off, that is when some drawn row
has a nonzero mask, which is R84's clause. That clause is not so where the first DXYN erased all its masks
cover; R80 and R83 are followed (log 7). -/
def Obligations.DrawingTwiceRestoresTheDisplay : Prop :=
  ∀ s t x y (n : Nibble), n = 0 ∨ s.I.toNat + n.toNat - 1 ≤ 0xFFF → exec (.drw x y n) s = .next t →
    t.getV x = s.getV x → t.getV y = s.getV y →
    ∃ u, exec (.drw x y n) t = .next u ∧ u.fb = s.fb ∧
      (u.getV VF = 1 ↔ ∃ r k, r < n.toNat ∧
        LandsOn s.cfg.verticalPolicy ((s.getV y).toNat % 32 + r) k ∧
        ~~~(s.fb.get k) &&& rowMask (s.readMem (s.I.toNat + r)) ((s.getV x).toNat % 64) ≠ 0) ∧
      (t.getV VF = 0 → (u.getV VF = 1 ↔ ∃ r k, r < n.toNat ∧
        LandsOn s.cfg.verticalPolicy ((s.getV y).toNat % 32 + r) k ∧
        rowMask (s.readMem (s.I.toNat + r)) ((s.getV x).toNat % 64) ≠ 0))

/-! ## Timers, input and the scheduler -/

/-- DT is read into Vx, or Vx is written to DT or to ST; nothing else changes (44_timers.md R115, R116,
R117). -/
def Obligations.TimerInstructionsComplete : Prop :=
  ∀ s x,
    (∃ t, exec (.ldVxDt x) s = .next t ∧ OnlyReg s t x s.dt) ∧
    exec (.ldDtVx x) s = .next { s with dt := s.getV x } ∧
    exec (.ldStVx x) s = .next { s with st := s.getV x }

/-- R118, R119, R120: the three input instructions change nothing; none skips, waits or writes Vx. -/
def Obligations.InputInstructionsAreNoOps : Prop :=
  ∀ s x, exec (.skp x) s = .next s ∧ exec (.sknp x) s = .next s ∧ exec (.ldVxK x) s = .next s

/-- A tick emits one FRAME record with the values before the decrement, decrements each timer that is above 0 by
exactly 1, and advances D_tick by 1/60 second; nothing else changes (60_exceptions.md R130). The list of
records, newest first, is the model's form of the FRAME port (log 14). -/
def Obligations.TickCountsDown : Prop :=
  ∀ s : State, s.tick.frames = { rows := s.fb, dt := s.dt, st := s.st } :: s.frames ∧
    s.tick.dt.toNat = s.dt.toNat - 1 ∧ s.tick.st.toNat = s.st.toNat - 1 ∧ s.tick.dTick = s.dTick + 1 / 60 ∧
    s.tick = { s with
      frames := s.tick.frames, dt := s.tick.dt, st := s.tick.st, dTick := s.tick.dTick }

/-- After FX15 sets DT = v, and n ticks, FX07 reads max(0, v - n) (70_reset_and_hazards.md R148, with no
instruction between the two). -/
def Obligations.DelayTimerReadsAfterTicks : Prop :=
  ∀ s t x y (n : Nat), exec (.ldDtVx x) s = .next t →
    ∃ u, exec (.ldVxDt y) (State.tick^[n] t) = .next u ∧
      (u.getV y).toNat = (s.getV x).toNat - n

/-- One turn of the wait phase takes one CLOCK sample, no earlier than the last; the instruction deadline is
checked first, and a deadline is advanced by its interval (70_reset_and_hazards.md R142; 10_state.md
R41). It holds for every sample. The clock's form (log 4), phase EXEC at the loop check (log 6) and the list of
FRAME records (log 14) are the model's. -/
def Obligations.WaitTurnChecksTheInstructionDeadlineFirst : Prop :=
  ∀ s, s.runState = .running → s.phase = .wait →
    ∃ u, step s = .next u ∧ s.now ≤ u.now ∧ u.clockSamples = s.clockSamples + 1 ∧
      (s.dInsn ≤ u.now → u = { s with
        now := u.now, clockSamples := u.clockSamples, dInsn := s.dInsn + 1 / (s.cfg.ips : Rat),
        phase := .exec }) ∧
      (u.now < s.dInsn → s.dTick ≤ u.now →
        u = State.tick { s with now := u.now, clockSamples := u.clockSamples }) ∧
      (u.now < s.dInsn → u.now < s.dTick →
        u = { s with now := u.now, clockSamples := u.clockSamples })

/-- A tick falls only in a wait phase, never in an instruction, and only while its deadline is before the
instruction deadline (70_reset_and_hazards.md R142, R145 (c) and (d)). A tick is seen by its FRAME record, put at
the head of the list: that form is the model's (log 14). -/
def Obligations.TicksFallOnlyInTheWaitPhase : Prop :=
  ∀ s u, s.runState = .running → step s = .next u → u.frames ≠ s.frames →
    s.phase = .wait ∧ s.dTick < s.dInsn ∧
    u.frames = { rows := s.fb, dt := s.dt, st := s.st } :: s.frames

/-- Every step keeps the deadlines and the order of ticks and instructions: instruction k's deadline is
t0 + k/IPS, tick j's is t0 + j/60, and no tick comes before an instruction whose deadline is no later than
its own (70_reset_and_hazards.md R140, R142, R145). It holds for every clock. The ticks are counted by their
FRAME records (log 14); the clock's form is the model's (log 4). -/
def Obligations.EveryStepKeepsTheSchedule : Prop :=
  ∀ s t : State, s.SchedInv → step s = .next t → t.SchedInv

/-! ## The host -/

/-- START takes one clock sample as t0, sets D_insn = t0 + 1/IPS and D_tick = t0 + 1/60, and starts the loop, at whose
top the first instruction executes with no wait (70_reset_and_hazards.md R140). The clock's form (log 4),
phase EXEC at the loop check (log 6), the list of transactions (log 9) and taking START without a LOAD (log 10)
are the model's. -/
def Obligations.StartSetsTheDeadlines : Prop :=
  ∀ s rest, s.runState = .idle → s.hostIn = .start :: rest → 1 ≤ s.cfg.ips →
    ∃ u, step s = .next u ∧ s.now ≤ u.now ∧ u.clockSamples = s.clockSamples + 1 ∧ u.t0 = u.now ∧ u.dInsn = u.t0 + 1 / (s.cfg.ips : Rat) ∧
      u.dTick = u.t0 + 1 / 60 ∧ u.runState = .running ∧ u.phase = .exec ∧
      u = { s with
        t0 := u.t0, dInsn := u.dInsn, dTick := u.dTick, now := u.now, clockSamples := u.clockSamples,
        runState := .running, phase := .exec, hostIn := rest }

/-- LOAD stores byte k at 0x200 + k up to and including 0xFFF, drops the rest unreported, and changes no other cell;
a second LOAD since the reset is refused (70_reset_and_hazards.md R138). The mark that remembers the first
(log 10) and the list of transactions (log 9) are the model's. -/
def Obligations.LoadStoresTheProgram : Prop :=
  ∀ s (bs : List Byte) rest, s.runState = .idle → s.hostIn = .load bs :: rest → s.mem.wf →
    (s.loaded = false → ∃ u, step s = .next u ∧
      (∀ k (h : k < bs.length), 0x200 + k ≤ 0xFFF → u.readMem (0x200 + k) = bs[k]) ∧
      (∀ a, a < 0x200 ∨ 0x200 + bs.length ≤ a ∨ 0xFFF < a → u.readMem a = s.readMem a) ∧
      u = { s with mem := u.mem, loaded := true, hostIn := rest }) ∧
    (s.loaded = true → step s = .refused .secondLoad)

/-- CONFIG writes every latch while the block is IDLE; IPS = 0 is refused there, and no run starts with it
(10_state.md R33, R38; 93_implementation_defined.md O4). The list of transactions (log 9), taking a repeated CONFIG while IDLE (log 10)
and writing cfg.FONT while memory keeps the FONT of the reset sequence (log 17) are the model's. -/
def Obligations.ConfigWritesTheLatches : Prop :=
  ∀ s rest, s.runState = .idle →
    (∀ l, s.hostIn = .config l :: rest → 1 ≤ l.ips → step s = .next { s with cfg := l, hostIn := rest }) ∧
    (∀ l, s.hostIn = .config l :: rest → l.ips = 0 → step s = .refused .configIpsZero) ∧
    (s.hostIn = .start :: rest → s.cfg.ips = 0 → step s = .refused .startIpsZero)

/-- The reset sequence with any FONT puts FONT at 0x050 to 0x09F and 0x00 in every other cell
(70_reset_and_hazards.md R136; 10_state.md R46, whose zeros are decision D15); with the default FONT it is
State.reset. That a reset request carries its FONT (log 17), and that State.reset lists no cell, an unlisted
one reading as with the default FONT (log 2), are the model's. -/
def Obligations.ResetSequenceLoadsTheFont : Prop :=
  (∀ font : Vector Byte 80,
    (∀ k (h : k < 80), (State.resetWith font).readMem (0x050 + k) = font[k]) ∧
    ∀ a, a < 0x050 ∨ 0x09F < a → (State.resetWith font).readMem a = 0) ∧
  State.resetWith Config.defaultFont = State.reset

/-- A reset transaction, taken by any block whose run is not in progress, leaves every element as the reset sequence
does: V0 to VF, I, the stack, DT, ST, the framebuffer and every cell outside the font zero (decision D15), pc
0x200, sp 0, IDLE and no fault, FONT at 0x050 to 0x09F (60_exceptions.md R126; 70_reset_and_hazards.md R136;
10_state.md R46). That the request carries its FONT, and that the rest of the list, the clock and the count of
draws go on, is the model's reading (log 17); so are the list of transactions (log 9) and what an unlisted
cell reads as (log 2). -/
def Obligations.ResetTransactionResetsTheMachine : Prop :=
  ∀ (s : State) (font : Vector Byte 80) rest, s.runState ≠ .running → s.hostIn = .reset font :: rest →
    ∃ t, step s = .next t ∧
      t = { State.resetWith font with
        hostIn := rest, rngDraws := s.rngDraws, now := s.now, clockSamples := s.clockSamples } ∧
      (∀ r, t.getV r = 0) ∧ t.I = 0 ∧ t.pc = 0x200 ∧ t.sp = 0 ∧ (∀ k, t.stack.get k = 0) ∧ t.dt = 0 ∧
      t.st = 0 ∧ (∀ k, t.fb.get k = 0) ∧ t.runState = .idle ∧ t.faultCause = 0 ∧ t.faultPc = 0 ∧
      t.phase = .stopped ∧ (∀ k (h : k < 80), t.readMem (0x050 + k) = font[k]) ∧
      ∀ a, a < 0x050 ∨ 0x09F < a → t.readMem a = 0

/-- The values of R46 that the state holds right after the reset sequence (10_state.md R46). The zeros of V0 to VF,
I, the stack, DT, ST and the framebuffer are decision D15. -/
def Obligations.ResetValuesAreTheSpecs : Prop :=
  (∀ r, State.reset.getV r = 0) ∧ State.reset.I = 0 ∧ State.reset.pc = 0x200 ∧ State.reset.sp = 0 ∧
  (∀ k, State.reset.stack.get k = 0) ∧ State.reset.dt = 0 ∧ State.reset.st = 0 ∧
  (∀ k, State.reset.fb.get k = 0) ∧ State.reset.runState = .idle ∧ State.reset.faultCause = 0 ∧
  State.reset.faultPc = 0 ∧ State.reset.phase = .stopped ∧ State.reset.cfg.stackErrorPolicy = .halt ∧
  State.reset.cfg.verticalPolicy = .wrap ∧ State.reset.cfg.group0Decode = .exact

/-! ## Invariants -/

/-- Every step, from every state that meets it, keeps the invariant State.Inv: canonical memory, a stack depth
of at most 16 with return addresses of at most 0x1000, a pc that never wraps, a status record that agrees
with the phase and with the fault codes, and a positive IPS in every run (10_state.md R20, R22, R23, R30,
R33, R35; 60_exceptions.md R122, R125). Phase EXEC from START on is the model's reading (log 6). -/
def Obligations.EveryStepKeepsTheInvariant : Prop :=
  ∀ s t : State, s.Inv → step s = .next t → t.Inv

/-- Both invariants hold right after reset (10_state.md R46, decision D15; canonical memory and the empty list of
FRAME records are the model's, logs 2 and 14). -/
def Obligations.ResetMeetsTheInvariants : Prop := State.reset.Inv ∧ State.reset.SchedInv
end

