-- ==== Sys2Proof/Laws/Decode.lean ====
section
/-! SUPPORT. The fields of an assembled word (30_encoding.md R64, R66), and what they decode to. -/

namespace Sys2Proof

@[simp] theorem regOf_regBits (r : Reg) : regOf (regBits r) = r := rfl

@[simp] theorem regBits_regOf (b : Nibble) : regBits (regOf b) = b := rfl

/-- A register field is `r` when its bits are those of `r`. -/
theorem regOf_eq_of_bits {b : Nibble} {r : Reg} (h : b = regBits r) : regOf b = r := by
  rw [h, regOf_regBits]

/-- Fields of a word built from four nibbles. -/
theorem fieldsOf_assemble (op : Nibble) (x y : Reg) (n : Nibble) :
    fieldsOf (assemble op x y n) =
      { op := op, x := x, y := y, n := n, nn := regBits y ++ n, nnn := regBits x ++ regBits y ++ n } := by
  simp only [fieldsOf, assemble, Fields.mk.injEq]
  refine ⟨?_, regOf_eq_of_bits ?_, regOf_eq_of_bits ?_, ?_, ?_, ?_⟩
  all_goals
    apply BitVec.eq_of_getLsbD_eq
    intro i hi
    simp only [BitVec.getLsbD_extractLsb', BitVec.getLsbD_append]
    interval_cases i <;> simp

/-- Fields of a word built from op, X and NN. -/
theorem fieldsOf_assembleNN (op : Nibble) (x : Reg) (nn : Byte) :
    fieldsOf (assembleNN op x nn) =
      { op := op, x := x, y := regOf (nn.extractLsb' 4 4), n := nn.extractLsb' 0 4, nn := nn,
        nnn := regBits x ++ nn } := by
  simp only [fieldsOf, assembleNN, Fields.mk.injEq]
  refine ⟨?_, regOf_eq_of_bits ?_, congrArg regOf ?_, ?_, ?_, ?_⟩
  all_goals
    apply BitVec.eq_of_getLsbD_eq
    intro i hi
    simp only [BitVec.getLsbD_extractLsb', BitVec.getLsbD_append]
    interval_cases i <;> simp

/-- Fields of a word built from op and NNN. -/
theorem fieldsOf_assembleNNN (op : Nibble) (nnn : Addr) :
    fieldsOf (assembleNNN op nnn) =
      { op := op, x := regOf (nnn.extractLsb' 8 4), y := regOf (nnn.extractLsb' 4 4),
        n := nnn.extractLsb' 0 4, nn := nnn.extractLsb' 0 8, nnn := nnn } := by
  simp only [fieldsOf, assembleNNN, Fields.mk.injEq]
  refine ⟨?_, congrArg regOf ?_, congrArg regOf ?_, ?_, ?_, ?_⟩
  all_goals
    apply BitVec.eq_of_getLsbD_eq
    intro i hi
    simp only [BitVec.getLsbD_extractLsb', BitVec.getLsbD_append]
    interval_cases i <;> simp

/-- A word decodes as its fields dispatch. -/
theorem decode_of_fields {g : Group0Decode} {w : Word} {f : Fields} (h : fieldsOf w = f) :
    decode g w = dispatch g f := congrArg (dispatch g) h

/-- The bytes of a word, high byte first, read back as the word (R50). -/
@[simp] theorem wordOf_bytes (w : Word) : wordOf (hiByte w) (loByte w) = w := by
  unfold wordOf hiByte loByte
  apply BitVec.eq_of_getLsbD_eq
  intro i hi
  simp only [BitVec.getLsbD_extractLsb', BitVec.getLsbD_append]
  interval_cases i <;> simp

end Sys2Proof
end

