-- ==== Sys2Proof/Laws/State.lean ====
section
/-! SUPPORT. What each named update of State leaves in each field, and the laws of the registers. -/

namespace Sys2Proof.Machine

/-! ### setV -/

section
variable (s : State) (r : Reg) (b : Byte)
@[simp] theorem State.setV_v : (s.setV r b).v = s.v.set r.val b r.isLt := rfl
@[simp] theorem State.setV_I : (s.setV r b).I = s.I := rfl
@[simp] theorem State.setV_pc : (s.setV r b).pc = s.pc := rfl
@[simp] theorem State.setV_stack : (s.setV r b).stack = s.stack := rfl
@[simp] theorem State.setV_sp : (s.setV r b).sp = s.sp := rfl
@[simp] theorem State.setV_dt : (s.setV r b).dt = s.dt := rfl
@[simp] theorem State.setV_st : (s.setV r b).st = s.st := rfl
@[simp] theorem State.setV_fb : (s.setV r b).fb = s.fb := rfl
@[simp] theorem State.setV_mem : (s.setV r b).mem = s.mem := rfl
@[simp] theorem State.setV_cfg : (s.setV r b).cfg = s.cfg := rfl
@[simp] theorem State.setV_t0 : (s.setV r b).t0 = s.t0 := rfl
@[simp] theorem State.setV_dInsn : (s.setV r b).dInsn = s.dInsn := rfl
@[simp] theorem State.setV_dTick : (s.setV r b).dTick = s.dTick := rfl
@[simp] theorem State.setV_phase : (s.setV r b).phase = s.phase := rfl
@[simp] theorem State.setV_runState : (s.setV r b).runState = s.runState := rfl
@[simp] theorem State.setV_faultCause : (s.setV r b).faultCause = s.faultCause := rfl
@[simp] theorem State.setV_faultPc : (s.setV r b).faultPc = s.faultPc := rfl
@[simp] theorem State.setV_loaded : (s.setV r b).loaded = s.loaded := rfl
@[simp] theorem State.setV_frames : (s.setV r b).frames = s.frames := rfl
@[simp] theorem State.setV_hostIn : (s.setV r b).hostIn = s.hostIn := rfl
@[simp] theorem State.setV_rngDraws : (s.setV r b).rngDraws = s.rngDraws := rfl
@[simp] theorem State.setV_now : (s.setV r b).now = s.now := rfl
@[simp] theorem State.setV_clockSamples : (s.setV r b).clockSamples = s.clockSamples := rfl
end

/-! ### advance -/

section
variable (s : State)
@[simp] theorem State.advance_v : (s.advance).v = s.v := rfl
@[simp] theorem State.advance_I : (s.advance).I = s.I := rfl
@[simp] theorem State.advance_pc : (s.advance).pc = s.pc + 2 := rfl
@[simp] theorem State.advance_stack : (s.advance).stack = s.stack := rfl
@[simp] theorem State.advance_sp : (s.advance).sp = s.sp := rfl
@[simp] theorem State.advance_dt : (s.advance).dt = s.dt := rfl
@[simp] theorem State.advance_st : (s.advance).st = s.st := rfl
@[simp] theorem State.advance_fb : (s.advance).fb = s.fb := rfl
@[simp] theorem State.advance_mem : (s.advance).mem = s.mem := rfl
@[simp] theorem State.advance_cfg : (s.advance).cfg = s.cfg := rfl
@[simp] theorem State.advance_t0 : (s.advance).t0 = s.t0 := rfl
@[simp] theorem State.advance_dInsn : (s.advance).dInsn = s.dInsn := rfl
@[simp] theorem State.advance_dTick : (s.advance).dTick = s.dTick := rfl
@[simp] theorem State.advance_phase : (s.advance).phase = s.phase := rfl
@[simp] theorem State.advance_runState : (s.advance).runState = s.runState := rfl
@[simp] theorem State.advance_faultCause : (s.advance).faultCause = s.faultCause := rfl
@[simp] theorem State.advance_faultPc : (s.advance).faultPc = s.faultPc := rfl
@[simp] theorem State.advance_loaded : (s.advance).loaded = s.loaded := rfl
@[simp] theorem State.advance_frames : (s.advance).frames = s.frames := rfl
@[simp] theorem State.advance_hostIn : (s.advance).hostIn = s.hostIn := rfl
@[simp] theorem State.advance_rngDraws : (s.advance).rngDraws = s.rngDraws := rfl
@[simp] theorem State.advance_now : (s.advance).now = s.now := rfl
@[simp] theorem State.advance_clockSamples : (s.advance).clockSamples = s.clockSamples := rfl
end

/-! ### skipIf -/

section
variable (s : State) (c : Bool)
@[simp] theorem State.skipIf_v : (s.skipIf c).v = s.v := rfl
@[simp] theorem State.skipIf_I : (s.skipIf c).I = s.I := rfl
@[simp] theorem State.skipIf_pc : (s.skipIf c).pc = if c then s.pc + 2 else s.pc := rfl
@[simp] theorem State.skipIf_stack : (s.skipIf c).stack = s.stack := rfl
@[simp] theorem State.skipIf_sp : (s.skipIf c).sp = s.sp := rfl
@[simp] theorem State.skipIf_dt : (s.skipIf c).dt = s.dt := rfl
@[simp] theorem State.skipIf_st : (s.skipIf c).st = s.st := rfl
@[simp] theorem State.skipIf_fb : (s.skipIf c).fb = s.fb := rfl
@[simp] theorem State.skipIf_mem : (s.skipIf c).mem = s.mem := rfl
@[simp] theorem State.skipIf_cfg : (s.skipIf c).cfg = s.cfg := rfl
@[simp] theorem State.skipIf_t0 : (s.skipIf c).t0 = s.t0 := rfl
@[simp] theorem State.skipIf_dInsn : (s.skipIf c).dInsn = s.dInsn := rfl
@[simp] theorem State.skipIf_dTick : (s.skipIf c).dTick = s.dTick := rfl
@[simp] theorem State.skipIf_phase : (s.skipIf c).phase = s.phase := rfl
@[simp] theorem State.skipIf_runState : (s.skipIf c).runState = s.runState := rfl
@[simp] theorem State.skipIf_faultCause : (s.skipIf c).faultCause = s.faultCause := rfl
@[simp] theorem State.skipIf_faultPc : (s.skipIf c).faultPc = s.faultPc := rfl
@[simp] theorem State.skipIf_loaded : (s.skipIf c).loaded = s.loaded := rfl
@[simp] theorem State.skipIf_frames : (s.skipIf c).frames = s.frames := rfl
@[simp] theorem State.skipIf_hostIn : (s.skipIf c).hostIn = s.hostIn := rfl
@[simp] theorem State.skipIf_rngDraws : (s.skipIf c).rngDraws = s.rngDraws := rfl
@[simp] theorem State.skipIf_now : (s.skipIf c).now = s.now := rfl
@[simp] theorem State.skipIf_clockSamples : (s.skipIf c).clockSamples = s.clockSamples := rfl
end

/-! ### faultEntry -/

section
variable (s : State) (e : FaultKind)
@[simp] theorem State.faultEntry_v : (s.faultEntry e).v = s.v := rfl
@[simp] theorem State.faultEntry_I : (s.faultEntry e).I = s.I := rfl
@[simp] theorem State.faultEntry_pc : (s.faultEntry e).pc = s.pc := rfl
@[simp] theorem State.faultEntry_stack : (s.faultEntry e).stack = s.stack := rfl
@[simp] theorem State.faultEntry_sp : (s.faultEntry e).sp = s.sp := rfl
@[simp] theorem State.faultEntry_dt : (s.faultEntry e).dt = s.dt := rfl
@[simp] theorem State.faultEntry_st : (s.faultEntry e).st = s.st := rfl
@[simp] theorem State.faultEntry_fb : (s.faultEntry e).fb = s.fb := rfl
@[simp] theorem State.faultEntry_mem : (s.faultEntry e).mem = s.mem := rfl
@[simp] theorem State.faultEntry_cfg : (s.faultEntry e).cfg = s.cfg := rfl
@[simp] theorem State.faultEntry_t0 : (s.faultEntry e).t0 = s.t0 := rfl
@[simp] theorem State.faultEntry_dInsn : (s.faultEntry e).dInsn = s.dInsn := rfl
@[simp] theorem State.faultEntry_dTick : (s.faultEntry e).dTick = s.dTick := rfl
@[simp] theorem State.faultEntry_phase : (s.faultEntry e).phase = .stopped := rfl
@[simp] theorem State.faultEntry_runState : (s.faultEntry e).runState = .faulted := rfl
@[simp] theorem State.faultEntry_faultCause : (s.faultEntry e).faultCause = faultCode e := rfl
@[simp] theorem State.faultEntry_faultPc : (s.faultEntry e).faultPc = s.insnAddr := rfl
@[simp] theorem State.faultEntry_loaded : (s.faultEntry e).loaded = s.loaded := rfl
@[simp] theorem State.faultEntry_frames : (s.faultEntry e).frames = s.frames := rfl
@[simp] theorem State.faultEntry_hostIn : (s.faultEntry e).hostIn = s.hostIn := rfl
@[simp] theorem State.faultEntry_rngDraws : (s.faultEntry e).rngDraws = s.rngDraws := rfl
@[simp] theorem State.faultEntry_now : (s.faultEntry e).now = s.now := rfl
@[simp] theorem State.faultEntry_clockSamples : (s.faultEntry e).clockSamples = s.clockSamples := rfl
end

/-! ### push -/

section
variable (s : State) (w : Word)
@[simp] theorem State.push_v : (s.push w).v = s.v := rfl
@[simp] theorem State.push_I : (s.push w).I = s.I := rfl
@[simp] theorem State.push_pc : (s.push w).pc = s.pc := rfl
@[simp] theorem State.push_stack : (s.push w).stack = s.stack.setIfInBounds s.sp w := rfl
@[simp] theorem State.push_sp : (s.push w).sp = s.sp + 1 := rfl
@[simp] theorem State.push_dt : (s.push w).dt = s.dt := rfl
@[simp] theorem State.push_st : (s.push w).st = s.st := rfl
@[simp] theorem State.push_fb : (s.push w).fb = s.fb := rfl
@[simp] theorem State.push_mem : (s.push w).mem = s.mem := rfl
@[simp] theorem State.push_cfg : (s.push w).cfg = s.cfg := rfl
@[simp] theorem State.push_t0 : (s.push w).t0 = s.t0 := rfl
@[simp] theorem State.push_dInsn : (s.push w).dInsn = s.dInsn := rfl
@[simp] theorem State.push_dTick : (s.push w).dTick = s.dTick := rfl
@[simp] theorem State.push_phase : (s.push w).phase = s.phase := rfl
@[simp] theorem State.push_runState : (s.push w).runState = s.runState := rfl
@[simp] theorem State.push_faultCause : (s.push w).faultCause = s.faultCause := rfl
@[simp] theorem State.push_faultPc : (s.push w).faultPc = s.faultPc := rfl
@[simp] theorem State.push_loaded : (s.push w).loaded = s.loaded := rfl
@[simp] theorem State.push_frames : (s.push w).frames = s.frames := rfl
@[simp] theorem State.push_hostIn : (s.push w).hostIn = s.hostIn := rfl
@[simp] theorem State.push_rngDraws : (s.push w).rngDraws = s.rngDraws := rfl
@[simp] theorem State.push_now : (s.push w).now = s.now := rfl
@[simp] theorem State.push_clockSamples : (s.push w).clockSamples = s.clockSamples := rfl
end

/-! ### pop -/

section
variable (s : State)
@[simp] theorem State.pop_v : (s.pop).v = s.v := rfl
@[simp] theorem State.pop_I : (s.pop).I = s.I := rfl
@[simp] theorem State.pop_pc : (s.pop).pc = s.pc := rfl
@[simp] theorem State.pop_stack : (s.pop).stack = s.stack := rfl
@[simp] theorem State.pop_sp : (s.pop).sp = s.sp - 1 := rfl
@[simp] theorem State.pop_dt : (s.pop).dt = s.dt := rfl
@[simp] theorem State.pop_st : (s.pop).st = s.st := rfl
@[simp] theorem State.pop_fb : (s.pop).fb = s.fb := rfl
@[simp] theorem State.pop_mem : (s.pop).mem = s.mem := rfl
@[simp] theorem State.pop_cfg : (s.pop).cfg = s.cfg := rfl
@[simp] theorem State.pop_t0 : (s.pop).t0 = s.t0 := rfl
@[simp] theorem State.pop_dInsn : (s.pop).dInsn = s.dInsn := rfl
@[simp] theorem State.pop_dTick : (s.pop).dTick = s.dTick := rfl
@[simp] theorem State.pop_phase : (s.pop).phase = s.phase := rfl
@[simp] theorem State.pop_runState : (s.pop).runState = s.runState := rfl
@[simp] theorem State.pop_faultCause : (s.pop).faultCause = s.faultCause := rfl
@[simp] theorem State.pop_faultPc : (s.pop).faultPc = s.faultPc := rfl
@[simp] theorem State.pop_loaded : (s.pop).loaded = s.loaded := rfl
@[simp] theorem State.pop_frames : (s.pop).frames = s.frames := rfl
@[simp] theorem State.pop_hostIn : (s.pop).hostIn = s.hostIn := rfl
@[simp] theorem State.pop_rngDraws : (s.pop).rngDraws = s.rngDraws := rfl
@[simp] theorem State.pop_now : (s.pop).now = s.now := rfl
@[simp] theorem State.pop_clockSamples : (s.pop).clockSamples = s.clockSamples := rfl
end

/-! ### drawn -/

section
variable (s : State)
@[simp] theorem State.drawn_v : (s.drawn).v = s.v := rfl
@[simp] theorem State.drawn_I : (s.drawn).I = s.I := rfl
@[simp] theorem State.drawn_pc : (s.drawn).pc = s.pc := rfl
@[simp] theorem State.drawn_stack : (s.drawn).stack = s.stack := rfl
@[simp] theorem State.drawn_sp : (s.drawn).sp = s.sp := rfl
@[simp] theorem State.drawn_dt : (s.drawn).dt = s.dt := rfl
@[simp] theorem State.drawn_st : (s.drawn).st = s.st := rfl
@[simp] theorem State.drawn_fb : (s.drawn).fb = s.fb := rfl
@[simp] theorem State.drawn_mem : (s.drawn).mem = s.mem := rfl
@[simp] theorem State.drawn_cfg : (s.drawn).cfg = s.cfg := rfl
@[simp] theorem State.drawn_t0 : (s.drawn).t0 = s.t0 := rfl
@[simp] theorem State.drawn_dInsn : (s.drawn).dInsn = s.dInsn := rfl
@[simp] theorem State.drawn_dTick : (s.drawn).dTick = s.dTick := rfl
@[simp] theorem State.drawn_phase : (s.drawn).phase = s.phase := rfl
@[simp] theorem State.drawn_runState : (s.drawn).runState = s.runState := rfl
@[simp] theorem State.drawn_faultCause : (s.drawn).faultCause = s.faultCause := rfl
@[simp] theorem State.drawn_faultPc : (s.drawn).faultPc = s.faultPc := rfl
@[simp] theorem State.drawn_loaded : (s.drawn).loaded = s.loaded := rfl
@[simp] theorem State.drawn_frames : (s.drawn).frames = s.frames := rfl
@[simp] theorem State.drawn_hostIn : (s.drawn).hostIn = s.hostIn := rfl
@[simp] theorem State.drawn_rngDraws : (s.drawn).rngDraws = s.rngDraws + 1 := rfl
@[simp] theorem State.drawn_now : (s.drawn).now = s.now := rfl
@[simp] theorem State.drawn_clockSamples : (s.drawn).clockSamples = s.clockSamples := rfl
end

/-! ### sample -/

section
variable (s : State)
@[simp] theorem State.sample_v : (s.sample).v = s.v := rfl
@[simp] theorem State.sample_I : (s.sample).I = s.I := rfl
@[simp] theorem State.sample_pc : (s.sample).pc = s.pc := rfl
@[simp] theorem State.sample_stack : (s.sample).stack = s.stack := rfl
@[simp] theorem State.sample_sp : (s.sample).sp = s.sp := rfl
@[simp] theorem State.sample_dt : (s.sample).dt = s.dt := rfl
@[simp] theorem State.sample_st : (s.sample).st = s.st := rfl
@[simp] theorem State.sample_fb : (s.sample).fb = s.fb := rfl
@[simp] theorem State.sample_mem : (s.sample).mem = s.mem := rfl
@[simp] theorem State.sample_cfg : (s.sample).cfg = s.cfg := rfl
@[simp] theorem State.sample_t0 : (s.sample).t0 = s.t0 := rfl
@[simp] theorem State.sample_dInsn : (s.sample).dInsn = s.dInsn := rfl
@[simp] theorem State.sample_dTick : (s.sample).dTick = s.dTick := rfl
@[simp] theorem State.sample_phase : (s.sample).phase = s.phase := rfl
@[simp] theorem State.sample_runState : (s.sample).runState = s.runState := rfl
@[simp] theorem State.sample_faultCause : (s.sample).faultCause = s.faultCause := rfl
@[simp] theorem State.sample_faultPc : (s.sample).faultPc = s.faultPc := rfl
@[simp] theorem State.sample_loaded : (s.sample).loaded = s.loaded := rfl
@[simp] theorem State.sample_frames : (s.sample).frames = s.frames := rfl
@[simp] theorem State.sample_hostIn : (s.sample).hostIn = s.hostIn := rfl
@[simp] theorem State.sample_rngDraws : (s.sample).rngDraws = s.rngDraws := rfl
@[simp] theorem State.sample_now : (s.sample).now = s.now + (Config.clockAdvance s.clockSamples : Rat) := rfl
@[simp] theorem State.sample_clockSamples : (s.sample).clockSamples = s.clockSamples + 1 := rfl
end

/-! ### tick -/

section
variable (s : State)
@[simp] theorem State.tick_v : (s.tick).v = s.v := rfl
@[simp] theorem State.tick_I : (s.tick).I = s.I := rfl
@[simp] theorem State.tick_pc : (s.tick).pc = s.pc := rfl
@[simp] theorem State.tick_stack : (s.tick).stack = s.stack := rfl
@[simp] theorem State.tick_sp : (s.tick).sp = s.sp := rfl
@[simp] theorem State.tick_dt : (s.tick).dt = countDown s.dt := rfl
@[simp] theorem State.tick_st : (s.tick).st = countDown s.st := rfl
@[simp] theorem State.tick_fb : (s.tick).fb = s.fb := rfl
@[simp] theorem State.tick_mem : (s.tick).mem = s.mem := rfl
@[simp] theorem State.tick_cfg : (s.tick).cfg = s.cfg := rfl
@[simp] theorem State.tick_t0 : (s.tick).t0 = s.t0 := rfl
@[simp] theorem State.tick_dInsn : (s.tick).dInsn = s.dInsn := rfl
@[simp] theorem State.tick_dTick : (s.tick).dTick = s.dTick + tickPeriod := rfl
@[simp] theorem State.tick_phase : (s.tick).phase = s.phase := rfl
@[simp] theorem State.tick_runState : (s.tick).runState = s.runState := rfl
@[simp] theorem State.tick_faultCause : (s.tick).faultCause = s.faultCause := rfl
@[simp] theorem State.tick_faultPc : (s.tick).faultPc = s.faultPc := rfl
@[simp] theorem State.tick_loaded : (s.tick).loaded = s.loaded := rfl
@[simp] theorem State.tick_frames : (s.tick).frames = { rows := s.fb, dt := s.dt, st := s.st } :: s.frames := rfl
@[simp] theorem State.tick_hostIn : (s.tick).hostIn = s.hostIn := rfl
@[simp] theorem State.tick_rngDraws : (s.tick).rngDraws = s.rngDraws := rfl
@[simp] theorem State.tick_now : (s.tick).now = s.now := rfl
@[simp] theorem State.tick_clockSamples : (s.tick).clockSamples = s.clockSamples := rfl
end

/-! ### halt -/

section
variable (s : State)
@[simp] theorem State.halt_v : (s.halt).v = s.v := rfl
@[simp] theorem State.halt_I : (s.halt).I = s.I := rfl
@[simp] theorem State.halt_pc : (s.halt).pc = s.pc := rfl
@[simp] theorem State.halt_stack : (s.halt).stack = s.stack := rfl
@[simp] theorem State.halt_sp : (s.halt).sp = s.sp := rfl
@[simp] theorem State.halt_dt : (s.halt).dt = s.dt := rfl
@[simp] theorem State.halt_st : (s.halt).st = s.st := rfl
@[simp] theorem State.halt_fb : (s.halt).fb = s.fb := rfl
@[simp] theorem State.halt_mem : (s.halt).mem = s.mem := rfl
@[simp] theorem State.halt_cfg : (s.halt).cfg = s.cfg := rfl
@[simp] theorem State.halt_t0 : (s.halt).t0 = s.t0 := rfl
@[simp] theorem State.halt_dInsn : (s.halt).dInsn = s.dInsn := rfl
@[simp] theorem State.halt_dTick : (s.halt).dTick = s.dTick := rfl
@[simp] theorem State.halt_phase : (s.halt).phase = .stopped := rfl
@[simp] theorem State.halt_runState : (s.halt).runState = .halted := rfl
@[simp] theorem State.halt_faultCause : (s.halt).faultCause = s.faultCause := rfl
@[simp] theorem State.halt_faultPc : (s.halt).faultPc = s.faultPc := rfl
@[simp] theorem State.halt_loaded : (s.halt).loaded = s.loaded := rfl
@[simp] theorem State.halt_frames : (s.halt).frames = s.frames := rfl
@[simp] theorem State.halt_hostIn : (s.halt).hostIn = s.hostIn := rfl
@[simp] theorem State.halt_rngDraws : (s.halt).rngDraws = s.rngDraws := rfl
@[simp] theorem State.halt_now : (s.halt).now = s.now := rfl
@[simp] theorem State.halt_clockSamples : (s.halt).clockSamples = s.clockSamples := rfl
end

/-! ### started -/

section
variable (s : State)
@[simp] theorem State.started_v : (s.started).v = s.v := rfl
@[simp] theorem State.started_I : (s.started).I = s.I := rfl
@[simp] theorem State.started_pc : (s.started).pc = s.pc := rfl
@[simp] theorem State.started_stack : (s.started).stack = s.stack := rfl
@[simp] theorem State.started_sp : (s.started).sp = s.sp := rfl
@[simp] theorem State.started_dt : (s.started).dt = s.dt := rfl
@[simp] theorem State.started_st : (s.started).st = s.st := rfl
@[simp] theorem State.started_fb : (s.started).fb = s.fb := rfl
@[simp] theorem State.started_mem : (s.started).mem = s.mem := rfl
@[simp] theorem State.started_cfg : (s.started).cfg = s.cfg := rfl
@[simp] theorem State.started_t0 : (s.started).t0 = s.now := rfl
@[simp] theorem State.started_dInsn : (s.started).dInsn = s.now + s.insnPeriod := rfl
@[simp] theorem State.started_dTick : (s.started).dTick = s.now + tickPeriod := rfl
@[simp] theorem State.started_phase : (s.started).phase = .exec := rfl
@[simp] theorem State.started_runState : (s.started).runState = .running := rfl
@[simp] theorem State.started_faultCause : (s.started).faultCause = s.faultCause := rfl
@[simp] theorem State.started_faultPc : (s.started).faultPc = s.faultPc := rfl
@[simp] theorem State.started_loaded : (s.started).loaded = s.loaded := rfl
@[simp] theorem State.started_frames : (s.started).frames = s.frames := rfl
@[simp] theorem State.started_hostIn : (s.started).hostIn = s.hostIn := rfl
@[simp] theorem State.started_rngDraws : (s.started).rngDraws = s.rngDraws := rfl
@[simp] theorem State.started_now : (s.started).now = s.now := rfl
@[simp] theorem State.started_clockSamples : (s.started).clockSamples = s.clockSamples := rfl
end

/-! ### Registers -/

@[simp] theorem State.getV_setV (s : State) (r : Reg) (b : Byte) : (s.setV r b).getV r = b := by
  simp [State.getV, State.setV, Vector.get_eq_getElem]

theorem State.getV_setV_ne (s : State) {r q : Reg} (b : Byte) (h : q ≠ r) :
    (s.setV r b).getV q = s.getV q := by
  have : r.val ≠ q.val := fun e => h (Fin.ext e.symm)
  simp [State.getV, State.setV, Vector.get_eq_getElem, Vector.getElem_set_ne, this]

theorem State.getV_setV_eq (s : State) (r q : Reg) (b : Byte) :
    (s.setV r b).getV q = if q = r then b else s.getV q := by
  by_cases h : q = r
  · subst h; simp
  · simp [h, State.getV_setV_ne s b h]

/-- The flag is what VF holds after a result and a flag are written, whatever x is (R95). -/
@[simp] theorem State.getV_setVFlag_VF (s : State) (x : Reg) (b f : Byte) :
    (s.setVFlag x b f).getV VF = f := by simp [State.setVFlag]

theorem State.getV_setVFlag (s : State) (x q : Reg) (b f : Byte) :
    (s.setVFlag x b f).getV q = if q = VF then f else if q = x then b else s.getV q := by
  simp [State.setVFlag, State.getV_setV_eq]

/-- Writing a register and a flag changes the register file only. -/
theorem State.setVFlag_eq (s : State) (x : Reg) (b f : Byte) :
    s.setVFlag x b f = { s with v := (s.setVFlag x b f).v } := rfl

@[simp] theorem State.readMem_setV (s : State) (r : Reg) (b : Byte) (a : Nat) :
    (s.setV r b).readMem a = s.readMem a := rfl

@[simp] theorem State.readMem_setVFlag (s : State) (x : Reg) (b f : Byte) (a : Nat) :
    (s.setVFlag x b f).readMem a = s.readMem a := rfl

/-- Two register files that agree register by register are equal. -/
theorem State.v_ext {s t : State} (h : ∀ r, s.getV r = t.getV r) : s.v = t.v := by
  apply Vector.ext
  intro k hk
  simpa [State.getV, Vector.get_eq_getElem] using h ⟨k, hk⟩

/-- What FX65 leaves in each register (R112). -/
@[simp] theorem State.loadedRegs_get (s : State) (x r : Reg) :
    (s.loadedRegs x).get r = if r ≤ x then s.readI r.val else s.getV r := by
  simp [State.loadedRegs, Vector.get_eq_getElem]

end Sys2Proof.Machine
end

