-- ==== Sys2Proof/Laws/Draw.lean ====
section
/-! SUPPORT. The rows of a sprite: where each lands, and one iteration of DXYN's loop (40_display.md R80, R82). -/

namespace Sys2Proof.Machine

/-- The row the machine computes is the one the rule names (R82). -/
theorem landsOn_iff (p : VerticalPolicy) (q : Nat) (k : Fin 32) :
    LandsOn p q k ↔ landingRow p q = some k := by
  cases p
  · simp [LandsOn, landingRow, Fin.ext_iff, eq_comm]
  · simp only [LandsOn, landingRow]
    split
    · simp [Fin.ext_iff, eq_comm]
    · simp; omega

/-- Two rows of one sprite never land on one framebuffer row: a sprite has at most 15 rows (R64). -/
theorem landsOn_injective {p : VerticalPolicy} {row0 r r' : Nat} {k : Fin 32} (hr : r < 16) (hr' : r' < 16)
    (h : LandsOn p (row0 + r) k) (h' : LandsOn p (row0 + r') k) : r = r' := by
  cases p <;> simp only [LandsOn] at h h' <;> omega

theorem drawRows_zero (s : State) (col row0 : Nat) : drawRows s col row0 0 = (s.fb, 0) := rfl

theorem drawRows_succ (s : State) (col row0 n : Nat) :
    drawRows s col row0 (n + 1) = drawRow s col row0 (drawRows s col row0 n) n := by
  simp [drawRows, List.range_succ]

/-- One sprite row: dropped, or XORed into the framebuffer row it lands on, with the flag set when a lit
pixel is turned off (R80, R82, R83). -/
theorem drawRow_cases (s : State) (col row0 : Nat) (acc : Vector Row 32 × Byte) (r : Nat) :
    ((∀ k, ¬ LandsOn s.cfg.verticalPolicy (row0 + r) k) ∧ drawRow s col row0 acc r = acc) ∨
    ∃ k, LandsOn s.cfg.verticalPolicy (row0 + r) k ∧
      (∀ j, (drawRow s col row0 acc r).1.get j =
        if j = k then acc.1.get k ^^^ rowMask (s.readI r) col else acc.1.get j) ∧
      (drawRow s col row0 acc r).2 = if acc.1.get k &&& rowMask (s.readI r) col ≠ 0 then 1 else acc.2 := by
  unfold drawRow
  split
  · rename_i hl
    exact .inl ⟨fun k => by rw [landsOn_iff, hl]; simp, rfl⟩
  · rename_i k hl
    refine .inr ⟨k, (landsOn_iff _ _ _).mpr hl, fun j => ?_, ?_⟩
    · by_cases h : j = k
      · subst h; simp [Vector.get_eq_getElem]
      · have h' : k.val ≠ j.val := fun e => h (Fin.ext e.symm)
        simp [Vector.get_eq_getElem, h, Vector.getElem_set_ne, h']
    · simp [collides]

end Sys2Proof.Machine
end

