-- ==== Sys2Proof/Laws/Memory.lean ====
section
/-! SUPPORT. The laws of memory: a read after a write, the canonical form, and storing bytes. -/

namespace Sys2Proof.Machine

/-! ### Reads after one write -/

theorem Memory.read_cons_same (a : Nat) (b : Byte) (m : Memory) (h : m.read a = Memory.unlisted a) :
    (Memory.cons a b m).read a = b := by
  unfold Memory.cons
  split
  · rw [h, ‹b = _›]
  · simp [Memory.read]

theorem Memory.read_cons_ne {a k : Nat} (b : Byte) (m : Memory) (h : k ≠ a) :
    (Memory.cons a b m).read k = m.read k := by
  unfold Memory.cons
  split
  · rfl
  · simp [Memory.read, h.symm]

/-- An address below every listed one reads as unlisted. -/
theorem Memory.read_below {m : Memory} {a : Nat} (h : ∀ p ∈ m, a < p.1) : m.read a = Memory.unlisted a := by
  induction m with
  | nil => rfl
  | cons p rest ih =>
    obtain ⟨k, c⟩ := p
    have hk : a < k := h (k, c) (by simp)
    simp only [Memory.read, if_neg (by omega : ¬ k = a)]
    exact ih fun q hq => h q (by simp [hq])

theorem Memory.read_insert {m : Memory} (hm : m.Pairwise fun p q => p.1 < q.1) (a k : Nat) (b : Byte) :
    (Memory.insert a b m).read k = if k = a then b else m.read k := by
  induction m with
  | nil =>
    by_cases h : k = a
    · subst h; simp [Memory.insert, Memory.read_cons_same k b [] rfl]
    · simp [Memory.insert, Memory.read_cons_ne b [] h, h]
  | cons p rest ih =>
    obtain ⟨j, c⟩ := p
    rw [List.pairwise_cons] at hm
    by_cases h : k = a
    · subst h
      simp only [Memory.insert, if_true]
      split
      · rename_i hlt
        refine Memory.read_cons_same _ _ _ (Memory.read_below fun q hq => ?_)
        rcases List.mem_cons.mp hq with rfl | hq
        · exact hlt
        · exact lt_trans hlt (hm.1 q hq)
      · split
        · rename_i hge he
          subst he
          exact Memory.read_cons_same _ _ _ (Memory.read_below hm.1)
        · rename_i hge hne
          simp only [Memory.read, if_neg (Ne.symm hne), ih hm.2, if_true]
    · simp only [Memory.insert, if_neg h]
      split
      · exact Memory.read_cons_ne b _ h
      · split
        · rename_i hge he
          subst he
          rw [Memory.read_cons_ne b rest h]
          simp [Memory.read, Ne.symm h]
        · simp only [Memory.read]
          split
          · rfl
          · rw [ih hm.2, if_neg h]

/-- A read after a write: the value written at its cell, the old byte everywhere else (R53, R58). -/
theorem Memory.read_write {m : Memory} (hm : m.wf) {a : Nat} (ha : a ≤ 0xFFF) (b : Byte) (k : Nat) :
    (m.write a b).read k = if k = a then b else m.read k := by
  unfold Memory.write Config.addrMax
  rw [if_pos ha]
  exact Memory.read_insert hm.1 a k b

/-! ### The canonical form -/

theorem Memory.cons_wf {a : Nat} {b : Byte} {m : Memory} (ha : a ≤ 0xFFF) (hm : m.wf)
    (hlow : ∀ p ∈ m, a < p.1) : (Memory.cons a b m).wf := by
  unfold Memory.cons
  split
  · exact hm
  · rename_i hb
    refine ⟨List.pairwise_cons.mpr ⟨hlow, hm.1⟩, fun p hp => ?_⟩
    rcases List.mem_cons.mp hp with rfl | hp
    · exact ⟨ha, hb⟩
    · exact hm.2 p hp

theorem Memory.mem_insert {a : Nat} {b : Byte} {m : Memory} {p : Host.Cell}
    (h : p ∈ Memory.insert a b m) : p = (a, b) ∨ p ∈ m := by
  have hc : ∀ r : Memory, p ∈ Memory.cons a b r → p = (a, b) ∨ p ∈ r := by
    intro r hr
    unfold Memory.cons at hr
    split at hr
    · exact .inr hr
    · exact List.mem_cons.mp hr
  induction m with
  | nil => exact hc _ h
  | cons q rest ih =>
    obtain ⟨k, c⟩ := q
    simp only [Memory.insert] at h
    split at h
    · exact hc _ h
    · split at h
      · rcases hc _ h with h | h
        · exact .inl h
        · exact .inr (by simp [h])
      · rcases List.mem_cons.mp h with rfl | h
        · exact .inr (by simp)
        · rcases ih h with h | h
          · exact .inl h
          · exact .inr (by simp [h])

theorem Memory.insert_wf {a : Nat} {b : Byte} {m : Memory} (ha : a ≤ 0xFFF) (hm : m.wf) :
    (Memory.insert a b m).wf := by
  induction m with
  | nil => exact Memory.cons_wf ha hm (by simp)
  | cons q rest ih =>
    obtain ⟨k, c⟩ := q
    have hp := List.pairwise_cons.mp hm.1
    have hrest : Memory.wf rest := ⟨hp.2, fun p h => hm.2 p (by simp [h])⟩
    simp only [Memory.insert]
    split
    · rename_i hlt
      refine Memory.cons_wf ha hm fun p h => ?_
      rcases List.mem_cons.mp h with rfl | h
      · exact hlt
      · exact lt_trans hlt (hp.1 p h)
    · split
      · rename_i hge he
        subst he
        exact Memory.cons_wf ha hrest hp.1
      · rename_i hge hne
        have ih' := ih hrest
        refine ⟨List.pairwise_cons.mpr ⟨fun p h => ?_, ih'.1⟩, fun p h => ?_⟩
        · rcases Memory.mem_insert h with rfl | h
          · show k < a
            omega
          · exact hp.1 p h
        · rcases List.mem_cons.mp h with rfl | h
          · exact hm.2 _ (by simp)
          · exact ih'.2 p h

/-- A write keeps the canonical form. -/
theorem Memory.write_wf {m : Memory} (hm : m.wf) (a : Nat) (b : Byte) : (m.write a b).wf := by
  unfold Memory.write
  split
  · exact Memory.insert_wf ‹_› hm
  · exact hm

/-- Storing bytes keeps the canonical form. -/
theorem Memory.storeBytes_wf {m : Memory} (hm : m.wf) (a : Nat) (bs : List Byte) :
    (m.storeBytes a bs).wf := by
  induction bs generalizing m a with
  | nil => exact hm
  | cons b bs ih => exact ih (Memory.write_wf hm a b) (a + 1)

/-! ### Storing bytes -/

/-- A read after bytes are stored: the byte stored at its cell, the old byte everywhere else (R52). -/
theorem Memory.read_storeBytes {m : Memory} (hm : m.wf) {a : Nat} {bs : List Byte}
    (hr : a + bs.length ≤ 0x1000) (k : Nat) :
    (m.storeBytes a bs).read k = if a ≤ k ∧ k < a + bs.length then bs.getD (k - a) 0 else m.read k := by
  induction bs generalizing m a with
  | nil => simp [Memory.storeBytes]
  | cons b bs ih =>
    simp only [List.length_cons] at hr ⊢
    have ha : a ≤ 0xFFF := by omega
    simp only [Memory.storeBytes]
    rw [ih (Memory.write_wf hm a b) (by omega), Memory.read_write hm ha]
    by_cases hk : k = a
    · subst hk
      simp
    · by_cases h1 : a + 1 ≤ k ∧ k < a + 1 + bs.length
      · have h2 : a ≤ k ∧ k < a + (bs.length + 1) := by omega
        rw [if_pos h1, if_pos h2]
        obtain ⟨d, hd⟩ : ∃ d, k - a = d + 1 := ⟨k - a - 1, by omega⟩
        have : k - (a + 1) = d := by omega
        simp [hd, this]
      · have h2 : ¬ (a ≤ k ∧ k < a + (bs.length + 1)) := by omega
        rw [if_neg h1, if_neg h2, if_neg hk]

/-! ### The range rule -/

theorem checkRange_iff (a n : Nat) : checkRange a n = true ↔ n = 0 ∨ a + n - 1 ≤ 0xFFF := by
  simp [checkRange, Config.addrMax]

end Sys2Proof.Machine
end

