-- ==== Sys2Proof/Laws/Ops.lean ====
section
/-! SUPPORT. What each shared operation can do, said once. -/

namespace Sys2Proof.Machine

/-- In range, an instruction through I has its effect (R54). -/
theorem State.guardRange_inRange (s t : State) {n : Nat} (h : n = 0 ∨ s.I.toNat + n - 1 ≤ 0xFFF) :
    s.guardRange n t = t := by
  simp [State.guardRange, (checkRange_iff _ _).mpr h]

/-- Out of range, it raises MemoryOutOfRange and has no other effect (R54). -/
theorem State.guardRange_outOfRange (s t : State) {n : Nat} (h0 : n ≠ 0) (h : 0xFFF < s.I.toNat + n - 1) :
    s.guardRange n t = s.faultEntry .memoryOutOfRange := by
  have : ¬ checkRange s.I.toNat n = true := by rw [checkRange_iff]; omega
  simp [State.guardRange, this]

/-- The two outcomes of an instruction through I. -/
theorem State.guardRange_cases (s t : State) (n : Nat) :
    ((n = 0 ∨ s.I.toNat + n - 1 ≤ 0xFFF) ∧ s.guardRange n t = t) ∨
    ((n ≠ 0 ∧ 0xFFF < s.I.toNat + n - 1) ∧ s.guardRange n t = s.faultEntry .memoryOutOfRange) := by
  by_cases h : n = 0 ∨ s.I.toNat + n - 1 ≤ 0xFFF
  · exact .inl ⟨h, s.guardRange_inRange t h⟩
  · have h' : n ≠ 0 ∧ 0xFFF < s.I.toNat + n - 1 := by omega
    exact .inr ⟨h', s.guardRange_outOfRange t h'.1 h'.2⟩

/-- The two outcomes of a stack signal (R124). -/
theorem State.signal_cases (s : State) (e : FaultKind) :
    (s.cfg.stackErrorPolicy = .halt ∧ s.signal e = s.faultEntry e) ∨
    (s.cfg.stackErrorPolicy = .cont ∧ s.signal e = s) := by
  unfold State.signal
  cases h : s.cfg.stackErrorPolicy <;> simp

/-- A flag is exactly 0 or exactly 1 (R17). -/
theorem flagOf_cases (c : Bool) : flagOf c = 0 ∨ flagOf c = 1 := by
  cases c <;> simp [flagOf]

@[simp] theorem countDown_toNat (b : Byte) : (countDown b).toNat = b.toNat - 1 := by
  unfold countDown
  split
  · have := b.isLt; simp [BitVec.toNat_sub]; omega
  · omega

/-- The three outcomes of a turn of the wait phase (R142). -/
theorem State.poll_cases (s : State) :
    (s.dInsn ≤ s.now ∧ s.poll = { s with dInsn := s.dInsn + s.insnPeriod, phase := .exec }) ∨
    (s.now < s.dInsn ∧ s.dTick ≤ s.now ∧ s.poll = s.tick) ∨
    (s.now < s.dInsn ∧ s.now < s.dTick ∧ s.poll = s) := by
  unfold State.poll
  by_cases h : s.dInsn ≤ s.now
  · exact .inl ⟨h, by simp [h]⟩
  · by_cases h' : s.dTick ≤ s.now
    · exact .inr (.inl ⟨not_le.mp h, h', by simp [h, h']⟩)
    · exact .inr (.inr ⟨not_le.mp h, not_le.mp h', by simp [h, h']⟩)

/-- The clock never goes back (R41). -/
theorem State.now_le_sample (s : State) : s.now ≤ s.sample.now := by
  simp only [State.sample_now]
  have : (0 : Rat) ≤ (Config.clockAdvance s.clockSamples : Rat) := NNRat.coe_nonneg _
  linarith

/-- No instruction answers anything but a next state: a fault is a next state too (R125), and no
instruction of the block is refused (R74). -/
theorem exec_next (i : Instr) (s : State) : ∃ t, exec i s = .next t := by
  cases i with
  | call nnn => simp only [exec, execCall]; split <;> exact ⟨_, rfl⟩
  | ret x y => simp only [exec, execRet]; split <;> exact ⟨_, rfl⟩
  | _ => exact ⟨_, rfl⟩

/-- What one instruction slot does: the normal end of the run, or the fetched instruction's effect after
the fetch advance, followed by the end of the execute phase (R75, R141). -/
theorem insnSlot_cases {s u : State} (h : insnSlot s = .next u) :
    (0xFFF ≤ s.pc.toNat ∧ u = s.halt) ∨
    (s.pc.toNat < 0xFFF ∧ ∃ t, exec (decode s.cfg.group0Decode s.fetchWord) s.advance = .next t ∧
      u = t.endExecute) := by
  unfold insnSlot Config.haltPc at h
  split at h
  · exact .inl ⟨‹_›, by injection h with h; exact h.symm⟩
  · obtain ⟨t, ht⟩ := exec_next (decode s.cfg.group0Decode s.fetchWord) s.advance
    rw [ht] at h
    injection h with h
    exact .inr ⟨by omega, t, ht, h.symm⟩

/-- What one step can do, when it answers a next state. -/
theorem step_cases {s u : State} (h : step s = .next u) :
    (s.runState = .running ∧ s.phase = .exec ∧ insnSlot s = .next u) ∨
    (s.runState = .running ∧ s.phase = .wait ∧ u = s.sample.poll) ∨
    (s.runState ≠ .running ∧ ∃ r rest, s.hostIn = r :: rest ∧
      takeRequest r { s with hostIn := rest } = .next u) ∨
    (s.runState = .idle ∧ s.hostIn = [] ∧ u = s) := by
  have host : ∀ (hr : s.runState ≠ .running), hostTurn s = .next u →
      (∃ r rest, s.hostIn = r :: rest ∧ takeRequest r { s with hostIn := rest } = .next u) ∨
      (s.runState = .idle ∧ s.hostIn = [] ∧ u = s) := by
    intro hr hh
    unfold hostTurn at hh
    split at hh
    · rename_i r rest hq
      exact .inl ⟨r, rest, hq, hh⟩
    · rename_i hq
      split at hh
      · rename_i hi
        injection hh with hh
        exact .inr ⟨hi, hq, hh.symm⟩
      all_goals cases hh
  unfold step at h
  split at h
  · rename_i hr
    split at h
    · exact .inl ⟨hr, ‹_›, h⟩
    · unfold waitTurn at h
      injection h with h
      exact .inr (.inl ⟨hr, ‹_›, h.symm⟩)
    · cases h
  all_goals
    rename_i hr
    have hn : s.runState ≠ .running := by rw [hr]; decide
    rcases host hn h with h | h
    · exact .inr (.inr (.inl ⟨hn, h⟩))
    · exact .inr (.inr (.inr h))

end Sys2Proof.Machine
end

