-- ==== Sys2Proof/Laws/Exec.lean ====
section
/-! SUPPORT. The two branches of CALL and RET, each as an equation (41_control_flow.md R88, R89). -/

namespace Sys2Proof.Machine

theorem exec_call_of_room {s : State} (nnn : Addr) (h : s.sp < 16) :
    exec (.call nnn) s = .next { s.push s.pc with pc := addrOf nnn } :=
  if_neg (Nat.not_le.mpr h)

theorem exec_call_of_full {s : State} (nnn : Addr) (h : 16 ≤ s.sp) :
    exec (.call nnn) s = .next (s.signal .stackOverflow) :=
  if_pos h

theorem exec_ret_of_entry {s : State} (x y : Reg) (h : 0 < s.sp) :
    exec (.ret x y) s = .next { s.pop with pc := s.top } :=
  if_neg (Nat.ne_of_gt h)

theorem exec_ret_of_empty {s : State} (x y : Reg) (h : s.sp = 0) :
    exec (.ret x y) s = .next (s.signal .stackUnderflow) :=
  if_pos h

/-- The entry a call stores is the one on top after it (R24). -/
theorem State.push_top {s : State} (w : Word) (h : s.sp < 16) : (s.push w).stack[s.sp]?.getD 0 = w := by
  simp [h]

end Sys2Proof.Machine
end

