-- ==== Sys2Proof/Laws/PerInstr.lean ====
section
/-! SUPPORT. Per instruction: the family RoundTrip says that decoding an instruction's word gives it back. -/

namespace Sys2Proof.Laws.RoundTrip

/-- Decoding the word of a well-formed instruction gives the instruction, operands and all. -/
def Statement (i : Instr) : Prop := ∀ g, WellFormed g i = true → decode g (encode i) = i

theorem cls (x : Reg) (y : Reg) : Statement (.cls x y) := by
  intro g h
  refine (decode_of_fields (fieldsOf_assemble _ _ _ _)).trans ?_
  cases g
  · simp only [WellFormed, group0Nibbles, Bool.and_eq_true, beq_iff_eq] at h
    obtain ⟨rfl, rfl⟩ := h
    rfl
  · rfl

theorem ret (x : Reg) (y : Reg) : Statement (.ret x y) := by
  intro g h
  refine (decode_of_fields (fieldsOf_assemble _ _ _ _)).trans ?_
  cases g
  · simp only [WellFormed, group0Nibbles, Bool.and_eq_true, beq_iff_eq] at h
    obtain ⟨rfl, rfl⟩ := h
    rfl
  · rfl

theorem jp (nnn : Addr) : Statement (.jp nnn) := fun _ _ =>
  (decode_of_fields (fieldsOf_assembleNNN _ _)).trans rfl

theorem call (nnn : Addr) : Statement (.call nnn) := fun _ _ =>
  (decode_of_fields (fieldsOf_assembleNNN _ _)).trans rfl

theorem seImm (x : Reg) (nn : Byte) : Statement (.seImm x nn) := fun _ _ =>
  (decode_of_fields (fieldsOf_assembleNN _ _ _)).trans rfl

theorem sneImm (x : Reg) (nn : Byte) : Statement (.sneImm x nn) := fun _ _ =>
  (decode_of_fields (fieldsOf_assembleNN _ _ _)).trans rfl

theorem seReg (x : Reg) (y : Reg) (n : Nibble) : Statement (.seReg x y n) := fun _ _ =>
  (decode_of_fields (fieldsOf_assemble _ _ _ _)).trans rfl

theorem ldImm (x : Reg) (nn : Byte) : Statement (.ldImm x nn) := fun _ _ =>
  (decode_of_fields (fieldsOf_assembleNN _ _ _)).trans rfl

theorem addImm (x : Reg) (nn : Byte) : Statement (.addImm x nn) := fun _ _ =>
  (decode_of_fields (fieldsOf_assembleNN _ _ _)).trans rfl

theorem ldReg (x : Reg) (y : Reg) : Statement (.ldReg x y) := fun _ _ =>
  (decode_of_fields (fieldsOf_assemble _ _ _ _)).trans rfl

theorem or (x : Reg) (y : Reg) : Statement (.or x y) := fun _ _ =>
  (decode_of_fields (fieldsOf_assemble _ _ _ _)).trans rfl

theorem and (x : Reg) (y : Reg) : Statement (.and x y) := fun _ _ =>
  (decode_of_fields (fieldsOf_assemble _ _ _ _)).trans rfl

theorem xor (x : Reg) (y : Reg) : Statement (.xor x y) := fun _ _ =>
  (decode_of_fields (fieldsOf_assemble _ _ _ _)).trans rfl

theorem addReg (x : Reg) (y : Reg) : Statement (.addReg x y) := fun _ _ =>
  (decode_of_fields (fieldsOf_assemble _ _ _ _)).trans rfl

theorem sub (x : Reg) (y : Reg) : Statement (.sub x y) := fun _ _ =>
  (decode_of_fields (fieldsOf_assemble _ _ _ _)).trans rfl

theorem shr (x : Reg) (y : Reg) : Statement (.shr x y) := fun _ _ =>
  (decode_of_fields (fieldsOf_assemble _ _ _ _)).trans rfl

theorem subn (x : Reg) (y : Reg) : Statement (.subn x y) := fun _ _ =>
  (decode_of_fields (fieldsOf_assemble _ _ _ _)).trans rfl

theorem shl (x : Reg) (y : Reg) : Statement (.shl x y) := fun _ _ =>
  (decode_of_fields (fieldsOf_assemble _ _ _ _)).trans rfl

theorem sneReg (x : Reg) (y : Reg) (n : Nibble) : Statement (.sneReg x y n) := fun _ _ =>
  (decode_of_fields (fieldsOf_assemble _ _ _ _)).trans rfl

theorem ldI (nnn : Addr) : Statement (.ldI nnn) := fun _ _ =>
  (decode_of_fields (fieldsOf_assembleNNN _ _)).trans rfl

theorem jpV0 (nnn : Addr) : Statement (.jpV0 nnn) := fun _ _ =>
  (decode_of_fields (fieldsOf_assembleNNN _ _)).trans rfl

theorem rnd (x : Reg) (nn : Byte) : Statement (.rnd x nn) := fun _ _ =>
  (decode_of_fields (fieldsOf_assembleNN _ _ _)).trans rfl

theorem drw (x : Reg) (y : Reg) (n : Nibble) : Statement (.drw x y n) := fun _ _ =>
  (decode_of_fields (fieldsOf_assemble _ _ _ _)).trans rfl

theorem skp (x : Reg) : Statement (.skp x) := fun _ _ =>
  (decode_of_fields (fieldsOf_assembleNN _ _ _)).trans rfl

theorem sknp (x : Reg) : Statement (.sknp x) := fun _ _ =>
  (decode_of_fields (fieldsOf_assembleNN _ _ _)).trans rfl

theorem ldVxDt (x : Reg) : Statement (.ldVxDt x) := fun _ _ =>
  (decode_of_fields (fieldsOf_assembleNN _ _ _)).trans rfl

theorem ldVxK (x : Reg) : Statement (.ldVxK x) := fun _ _ =>
  (decode_of_fields (fieldsOf_assembleNN _ _ _)).trans rfl

theorem ldDtVx (x : Reg) : Statement (.ldDtVx x) := fun _ _ =>
  (decode_of_fields (fieldsOf_assembleNN _ _ _)).trans rfl

theorem ldStVx (x : Reg) : Statement (.ldStVx x) := fun _ _ =>
  (decode_of_fields (fieldsOf_assembleNN _ _ _)).trans rfl

theorem addI (x : Reg) : Statement (.addI x) := fun _ _ =>
  (decode_of_fields (fieldsOf_assembleNN _ _ _)).trans rfl

theorem ldF (x : Reg) : Statement (.ldF x) := fun _ _ =>
  (decode_of_fields (fieldsOf_assembleNN _ _ _)).trans rfl

theorem ldB (x : Reg) : Statement (.ldB x) := fun _ _ =>
  (decode_of_fields (fieldsOf_assembleNN _ _ _)).trans rfl

theorem ldMemRegs (x : Reg) : Statement (.ldMemRegs x) := fun _ _ =>
  (decode_of_fields (fieldsOf_assembleNN _ _ _)).trans rfl

theorem ldRegsMem (x : Reg) : Statement (.ldRegsMem x) := fun _ _ =>
  (decode_of_fields (fieldsOf_assembleNN _ _ _)).trans rfl

theorem unknown0 (nnn : Addr) : Statement (.unknown0 nnn) := by
  intro g h
  refine (decode_of_fields (fieldsOf_assembleNNN _ _)).trans ?_
  show dispatch0 g _ = _
  cases g <;> simp_all [WellFormed, group0Known, dispatch0]

theorem unknown8 (x : Reg) (y : Reg) (n : Nibble) : Statement (.unknown8 x y n) := by
  intro g h
  refine (decode_of_fields (fieldsOf_assemble _ _ _ _)).trans ?_
  show dispatch8 _ = _
  simp only [WellFormed, group8Known] at h
  have h1 : ¬ n.toNat ≤ 7 ∧ n ≠ 0xE := by simpa using h
  have h2 : n.toNat ≠ 0xE := fun e => h1.2 (BitVec.eq_of_toNat_eq e)
  unfold dispatch8
  split <;> first | rfl | (simp only at *; omega)

theorem unknownE (x : Reg) (nn : Byte) : Statement (.unknownE x nn) := by
  intro g h
  refine (decode_of_fields (fieldsOf_assembleNN _ _ _)).trans ?_
  show dispatchE _ = _
  have hn : nn = BitVec.ofNat 8 nn.toNat := by simp
  unfold dispatchE
  split
  all_goals first
    | rfl
    | (rename_i e; simp only at e; rw [e] at hn; subst hn; simp [WellFormed, groupEKnown] at h)

theorem unknownF (x : Reg) (nn : Byte) : Statement (.unknownF x nn) := by
  intro g h
  refine (decode_of_fields (fieldsOf_assembleNN _ _ _)).trans ?_
  show dispatchF _ = _
  have hn : nn = BitVec.ofNat 8 nn.toNat := by simp
  unfold dispatchF
  split
  all_goals first
    | rfl
    | (rename_i e; simp only at e; rw [e] at hn; subst hn; simp [WellFormed, groupFKnown] at h)

end Sys2Proof.Laws.RoundTrip
end

