-- ==== Sys2Proof/Tests/Slice0.lean ====
section
/-! SUPPORT. Tests: the well-formedness check refuses ill-formed terms, words written out from the spec's
encodings decode, one step on small states, and for each obligation with hypotheses states that meet them.
Expected results are those of 95_test_vectors.md (the ids cited are its rows; the instruction stands at 0x200
here) or worked from the rule cited. -/

namespace Sys2Proof.Tests

open Sys2Proof.Machine

/-! ## Well-formedness: one ill-formed term for each check (R68 to R70, R73) -/

theorem test_illFormed_cls : WellFormed .exact (.cls 1 0xE) = false := by decide
theorem test_illFormed_ret : WellFormed .exact (.ret 0 0) = false := by decide
theorem test_illFormed_unknown0_exact : WellFormed .exact (.unknown0 0x0E0) = false := by decide
theorem test_illFormed_unknown0_nibble : WellFormed .nibble (.unknown0 0x3AE) = false := by decide
theorem test_illFormed_unknown8 : WellFormed .exact (.unknown8 1 2 0xE) = false := by decide
theorem test_illFormed_unknownE : WellFormed .exact (.unknownE 3 0x9E) = false := by decide
theorem test_illFormed_unknownF : WellFormed .exact (.unknownF 3 0x65) = false := by decide

/-! ## Decoding: the word of each pattern of R72 and R73, written out bit by bit

Each line also shows a word that matches its row's mask. -/

/-- `w` matches the row (mask, pattern) and decodes to `i` under `g`. -/
def rowDecodes (g : Group0Decode) (mask pattern w : Word) (i : Instr) : Bool :=
  w &&& mask == pattern && decide (decode g w = i)

theorem test_decode_group0 :
    rowDecodes .exact 0xFFFF 0x00E0 0b0000_0000_1110_0000 (.cls 0 0xE) &&
    rowDecodes .exact 0xFFFF 0x00EE 0b0000_0000_1110_1110 (.ret 0 0xE) &&
    rowDecodes .exact 0xF000 0x0000 0b0000_0001_1110_0000 (.unknown0 0x1E0) &&
    rowDecodes .nibble 0xF00F 0x0000 0b0000_0001_1110_0000 (.cls 1 0xE) &&
    rowDecodes .nibble 0xF00F 0x000E 0b0000_0001_1110_1110 (.ret 1 0xE) &&
    rowDecodes .nibble 0xF000 0x0000 0b0000_0000_1110_0001 (.unknown0 0x0E1) = true := by decide

theorem test_decode_jumps :
    rowDecodes .exact 0xF000 0x1000 0b0001_0010_0011_0100 (.jp 0x234) &&
    rowDecodes .exact 0xF000 0x2000 0b0010_1111_1111_1110 (.call 0xFFE) &&
    rowDecodes .exact 0xF000 0xA000 0b1010_0010_1111_0000 (.ldI 0x2F0) &&
    rowDecodes .exact 0xF000 0xB000 0b1011_0011_0000_0001 (.jpV0 0x301) = true := by decide

theorem test_decode_constants :
    rowDecodes .exact 0xF000 0x3000 0b0011_0011_0010_1010 (.seImm 3 0x2A) &&
    rowDecodes .exact 0xF000 0x4000 0b0100_0011_0010_1011 (.sneImm 3 0x2B) &&
    rowDecodes .exact 0xF000 0x5000 0b0101_0001_0010_0001 (.seReg 1 2 1) &&
    rowDecodes .exact 0xF000 0x6000 0b0110_0001_0000_0101 (.ldImm 1 0x05) &&
    rowDecodes .exact 0xF000 0x7000 0b0111_0010_0010_0000 (.addImm 2 0x20) &&
    rowDecodes .exact 0xF000 0x9000 0b1001_0001_0010_1111 (.sneReg 1 2 0xF) &&
    rowDecodes .exact 0xF000 0xC000 0b1100_0001_0000_1111 (.rnd 1 0x0F) &&
    rowDecodes .exact 0xF000 0xD000 0b1101_0001_0010_0011 (.drw 1 2 3) = true := by decide

theorem test_decode_group8 :
    rowDecodes .exact 0xF00F 0x8000 0b1000_0001_0010_0000 (.ldReg 1 2) &&
    rowDecodes .exact 0xF00F 0x8001 0b1000_0001_0010_0001 (.or 1 2) &&
    rowDecodes .exact 0xF00F 0x8002 0b1000_0001_0010_0010 (.and 1 2) &&
    rowDecodes .exact 0xF00F 0x8003 0b1000_0001_0010_0011 (.xor 1 2) &&
    rowDecodes .exact 0xF00F 0x8004 0b1000_0001_0010_0100 (.addReg 1 2) &&
    rowDecodes .exact 0xF00F 0x8005 0b1000_0001_0010_0101 (.sub 1 2) &&
    rowDecodes .exact 0xF00F 0x8006 0b1000_0001_0010_0110 (.shr 1 2) &&
    rowDecodes .exact 0xF00F 0x8007 0b1000_0001_0010_0111 (.subn 1 2) &&
    rowDecodes .exact 0xF00F 0x800E 0b1000_0001_0010_1110 (.shl 1 2) &&
    rowDecodes .exact 0xF00F 0x800F 0b1000_0001_0010_1111 (.unknown8 1 2 0xF) = true := by decide

theorem test_decode_groupE :
    rowDecodes .exact 0xF0FF 0xE09E 0b1110_0011_1001_1110 (.skp 3) &&
    rowDecodes .exact 0xF0FF 0xE0A1 0b1110_0011_1010_0001 (.sknp 3) &&
    rowDecodes .exact 0xF0FF 0xE09F 0b1110_0011_1001_1111 (.unknownE 3 0x9F) = true := by decide

theorem test_decode_groupF :
    rowDecodes .exact 0xF0FF 0xF007 0b1111_0101_0000_0111 (.ldVxDt 5) &&
    rowDecodes .exact 0xF0FF 0xF00A 0b1111_0101_0000_1010 (.ldVxK 5) &&
    rowDecodes .exact 0xF0FF 0xF015 0b1111_0101_0001_0101 (.ldDtVx 5) &&
    rowDecodes .exact 0xF0FF 0xF018 0b1111_0101_0001_1000 (.ldStVx 5) &&
    rowDecodes .exact 0xF0FF 0xF01E 0b1111_0101_0001_1110 (.addI 5) &&
    rowDecodes .exact 0xF0FF 0xF029 0b1111_0101_0010_1001 (.ldF 5) &&
    rowDecodes .exact 0xF0FF 0xF033 0b1111_0101_0011_0011 (.ldB 5) &&
    rowDecodes .exact 0xF0FF 0xF055 0b1111_0101_0101_0101 (.ldMemRegs 5) &&
    rowDecodes .exact 0xF0FF 0xF065 0b1111_0101_0110_0101 (.ldRegsMem 5) &&
    rowDecodes .exact 0xF0FF 0xF0FF 0b1111_0101_1111_1111 (.unknownF 5 0xFF) = true := by decide

theorem test_decodeTableWord :
    decodeTableWord 16 0x8014 = some (.addReg 0 1) ∧ decodeTableWord 16 0x00EE = some (.ret 0 0xE) := by decide

theorem test_encode :
    encode (.drw 1 2 3) = 0xD123 ∧ encode (.ldRegsMem 2) = 0xF265 ∧ encode (.jp 0x234) = 0x1234 := by decide

/-! ## One step -/

/-- A running block at the top of its loop, about to execute the word `w` at 0x200; all else as at reset. -/
def ready (w : Nat) : State := State.reset.withFetchWord 16 w

/-- One step answers a next state, and it has the property. -/
def stepped (s : State) (p : State → Bool) : Bool :=
  match step s with
  | .next t => p t
  | .fault _ | .refused _ => false

/-- The latches of reset with every quirk set. -/
def quirky (s : State) : State := { s with cfg := { s.cfg with qShift := true, qJump := true, qIncr := true } }

/-- Byte `b` in memory at `a`. -/
def poke (s : State) (a : Nat) (b : Byte) : State := { s with mem := s.mem.write a b }

/-- DSP1. -/
theorem test_CLS : stepped { ready 0x00E0 with fb := Vector.replicate 32 0xFF }
    (fun t => t.fb == Vector.replicate 32 0 && t.pc == 0x202) = true := by decide

/-- CF10. -/
theorem test_RET : stepped { ready 0x00EE with stack := (Vector.replicate 16 0).set 1 0x456, sp := 2 }
    (fun t => t.pc == 0x456 && t.sp == 1 && t.stack.get 1 == 0x456) = true := by decide

/-- CF11, X3. -/
theorem test_RET_empty : stepped (ready 0x00EE)
    (fun t => t.runState == .faulted && t.faultCause == 2 && t.faultPc == 0x200 && t.pc == 0x202 &&
      t.phase == .stopped) = true := by decide

/-- CF1. -/
theorem test_JP : stepped (ready 0x1234) (fun t => t.pc == 0x234) = true := by decide

/-- CF6. -/
theorem test_CALL : stepped (ready 0x2400)
    (fun t => t.pc == 0x400 && t.sp == 1 && t.stack.get 0 == 0x202) = true := by decide

/-- CF8 under `continue`, X2. -/
theorem test_CALL_full : stepped { ready 0x2400 with
      sp := 16, cfg := { Config.resetLatches with stackErrorPolicy := .cont } }
    (fun t => t.runState == .running && t.phase == .wait && t.sp == 16 && t.pc == 0x202) = true := by decide

/-- CF12 to CF15. -/
theorem test_skips_constant :
    stepped ((ready 0x332A).setV 3 0x2A) (fun t => t.pc == 0x204) &&
    stepped ((ready 0x332B).setV 3 0x2A) (fun t => t.pc == 0x202) &&
    stepped ((ready 0x432A).setV 3 0x2A) (fun t => t.pc == 0x202) &&
    stepped ((ready 0x432B).setV 3 0x2A) (fun t => t.pc == 0x204) = true := by decide

/-- E10, E11, CF17, CF18. -/
theorem test_skips_register :
    stepped (((ready 0x5121).setV 1 7).setV 2 7) (fun t => t.pc == 0x204) &&
    stepped (((ready 0x5120).setV 1 7).setV 2 8) (fun t => t.pc == 0x202) &&
    stepped (((ready 0x9120).setV 1 7).setV 2 7) (fun t => t.pc == 0x202) &&
    stepped (((ready 0x912F).setV 1 7).setV 2 8) (fun t => t.pc == 0x204) = true := by decide

/-- CF3, CF4. -/
theorem test_JP_V0 :
    stepped (((ready 0xB300).setV 0 0x10).setV 3 5) (fun t => t.pc == 0x310) &&
    stepped (quirky (((ready 0xB300).setV 0 0x10).setV 3 5)) (fun t => t.pc == 0x305) = true := by decide

/-- CF5. -/
theorem test_JP_V0_unmasked : stepped ((ready 0xBFFF).setV 0 0xFF) (fun t => t.pc == 0x10FE) = true := by decide

/-- AL1, AL2. -/
theorem test_LD_ADD_constant :
    stepped (ready 0x6105) (fun t => t.getV 1 == 0x05) &&
    stepped (((ready 0x7220).setV 2 0xF0).setV 15 0x55) (fun t => t.getV 2 == 0x10 && t.getV 15 == 0x55) = true := by
  decide

/-- AL4 to AL7. -/
theorem test_logic :
    stepped ((ready 0x8120).setV 2 0x33) (fun t => t.getV 1 == 0x33) &&
    stepped ((((ready 0x8121).setV 1 0x0C).setV 2 0x0A).setV 15 0x55)
      (fun t => t.getV 1 == 0x0E && t.getV 15 == 0x55) &&
    stepped (((ready 0x8122).setV 1 0x0C).setV 2 0x0A) (fun t => t.getV 1 == 0x08) &&
    stepped (((ready 0x8123).setV 1 0x0C).setV 2 0x0A) (fun t => t.getV 1 == 0x06) = true := by decide

/-- AL10, AL13. -/
theorem test_ADD :
    stepped (((ready 0x8014).setV 0 0xFF).setV 1 1) (fun t => t.getV 0 == 0 && t.getV 15 == 1) &&
    stepped (((ready 0x8F14).setV 15 0x80).setV 1 0x80) (fun t => t.getV 15 == 1) = true := by decide

/-- AL16, AL17. -/
theorem test_SUB :
    stepped (((ready 0x8125).setV 1 5).setV 2 5) (fun t => t.getV 1 == 0 && t.getV 15 == 1) &&
    stepped (((ready 0x8125).setV 2 1).setV 15 1) (fun t => t.getV 1 == 0xFF && t.getV 15 == 0) = true := by decide

/-- AL19, AL20. -/
theorem test_SUBN :
    stepped (((ready 0x8127).setV 1 1).setV 2 0x10) (fun t => t.getV 1 == 0x0F && t.getV 15 == 1) &&
    stepped ((ready 0x8127).setV 1 1) (fun t => t.getV 1 == 0xFF && t.getV 15 == 0) = true := by decide

/-- AL21, AL22. -/
theorem test_SHR :
    stepped (((ready 0x8126).setV 1 5).setV 2 0x80) (fun t => t.getV 1 == 2 && t.getV 15 == 1) &&
    stepped (quirky (((ready 0x8126).setV 1 5).setV 2 0x80)) (fun t => t.getV 1 == 0x40 && t.getV 15 == 0) = true := by
  decide

/-- AL23, AL26. -/
theorem test_SHL :
    stepped (((ready 0x812E).setV 1 0x81).setV 2 1) (fun t => t.getV 1 == 2 && t.getV 15 == 1) &&
    stepped ((ready 0x8FFE).setV 15 0x40) (fun t => t.getV 15 == 0) = true := by decide

/-- IX1, IX4, IX7. -/
theorem test_index :
    stepped (ready 0xA2F0) (fun t => t.I == 0x2F0) &&
    stepped { (ready 0xF41E).setV 4 1 with I := 0xFFFF } (fun t => t.I == 0 && t.getV 15 == 0) &&
    stepped ((ready 0xF229).setV 2 0x10) (fun t => t.I == 0x0A0) = true := by decide

/-- AL30: whatever byte is drawn. -/
theorem test_RND : stepped (ready 0xC100) (fun t => t.rngDraws == 1) = true := by decide

/-- DSP3, DSP11. -/
theorem test_DRW_edges :
    stepped (poke { (ready 0xD011).setV 0 62 with I := 0x400 } 0x400 0xFF)
      (fun t => t.fb.get 0 == 0x3 && t.getV 15 == 0) &&
    stepped (poke (poke { (ready 0xD012).setV 1 31 with I := 0x400 } 0x400 0x80) 0x401 0x80)
      (fun t => t.fb.get 31 == 0x8000000000000000 && t.fb.get 0 == 0x8000000000000000) = true := by decide

/-- DSP9, DSP14. -/
theorem test_DRW_flag :
    stepped (poke { ready 0xD011 with I := 0x400, fb := (Vector.replicate 32 0).set 0 0x4000000000000000 } 0x400 0xC0)
      (fun t => t.fb.get 0 == 0x8000000000000000 && t.getV 15 == 1) &&
    stepped { (ready 0xD014).setV 15 7 with I := 0xFFD }
      (fun t => t.faultCause == 3 && t.getV 15 == 7 && t.pc == 0x202) = true := by decide

/-- IX9, IX13. -/
theorem test_LD_B :
    stepped { (ready 0xF533).setV 5 157 with I := 0x400 }
      (fun t => t.readMem 0x400 == 1 && t.readMem 0x401 == 5 && t.readMem 0x402 == 7 && t.readMem 0x403 == 0) &&
    stepped { (ready 0xF533).setV 5 123 with I := 0xFFE }
      (fun t => t.faultCause == 3 && t.readMem 0xFFE == 0) = true := by decide

/-- IX15, IX22. -/
theorem test_LD_mem_regs :
    stepped (quirky { (((ready 0xF255).setV 0 1).setV 1 2).setV 2 3 with I := 0x400 })
      (fun t => t.readMem 0x400 == 1 && t.readMem 0x402 == 3 && t.readMem 0x403 == 0 && t.I == 0x403) &&
    stepped (quirky { (ready 0xFF55).setV 0 1 with I := 0xFFF0 })
      (fun t => t.faultCause == 3 && t.I == 0xFFF0) = true := by decide

/-- IX18, IX20. -/
theorem test_LD_regs_mem :
    stepped (poke (poke { ready 0xF165 with I := 0x400 } 0x400 7) 0x401 8)
      (fun t => t.getV 0 == 7 && t.getV 1 == 8 && t.I == 0x400) &&
    stepped (poke { ready 0xFF65 with I := 0xFF0 } 0xFFF 0x42) (fun t => t.getV 15 == 0x42) = true := by decide

/-- TM1, TM2, TM3. -/
theorem test_timers :
    stepped { ready 0xF307 with dt := 0x3C } (fun t => t.getV 3 == 0x3C && t.dt == 0x3C) &&
    stepped ((ready 0xF315).setV 3 0x3C) (fun t => t.dt == 0x3C && t.st == 0) &&
    stepped ((ready 0xF318).setV 3 5) (fun t => t.st == 5 && t.dt == 0) = true := by decide

/-- IN1 to IN3. -/
theorem test_input :
    stepped ((ready 0xE19E).setV 1 3) (fun t => t == { (ready 0xE19E).setV 1 3 with pc := 0x202, phase := .wait }) &&
    stepped ((ready 0xE1A1).setV 1 3) (fun t => t == { (ready 0xE1A1).setV 1 3 with pc := 0x202, phase := .wait }) &&
    stepped ((ready 0xF10A).setV 1 0x42)
      (fun t => t == { (ready 0xF10A).setV 1 0x42 with pc := 0x202, phase := .wait }) = true := by decide

/-- E1, E7, E8, E9. -/
theorem test_unknown :
    stepped (ready 0x0000) (fun t => t == { ready 0x0000 with pc := 0x202, phase := .wait }) &&
    stepped (ready 0x8008) (fun t => t == { ready 0x8008 with pc := 0x202, phase := .wait }) &&
    stepped (ready 0xE09F) (fun t => t == { ready 0xE09F with pc := 0x202, phase := .wait }) &&
    stepped (ready 0xF0FF) (fun t => t == { ready 0xF0FF with pc := 0x202, phase := .wait }) = true := by decide

/-- E12: a fetch at an odd address. -/
theorem test_odd_fetch :
    stepped ({ State.reset with pc := 0x301 }.withFetchWord 16 0x6142)
      (fun t => t.getV 1 == 0x42 && t.pc == 0x303) = true := by decide

/-- X5: a fault comes before the loop check. -/
theorem test_fault_before_halt :
    stepped ({ State.reset with pc := 0xFFE, sp := 16 }.withFetchWord 16 0x2400)
      (fun t => t.runState == .faulted && t.faultPc == 0xFFE && t.pc == 0x1000) = true := by decide

/-- TK1, TK3, TK4. -/
theorem test_ticks :
    ({ State.reset with dt := 5, st := 2 }.tick.dt, { State.reset with dt := 5, st := 2 }.tick.st) = (4, 1) ∧
    State.reset.tick.dt = 0 ∧ { State.reset with st := 0xFF }.tick.st = 0xFE ∧
    (State.reset.tick.frames.map fun f => (f.dt, f.st)) = [(0, 0)] := by decide

/-- RS2. -/
theorem test_LOAD : stepped { State.reset with hostIn := [.load [0x60, 0x05, 0x61]] }
    (fun t => t.readMem 0x200 == 0x60 && t.readMem 0x201 == 0x05 && t.readMem 0x202 == 0x61 &&
      t.readMem 0x203 == 0 && t.loaded && t.hostIn == []) = true := by decide

/-- RS4: 3584 of 3585 bytes fit. -/
theorem test_LOAD_fits : (loadable (List.replicate 3585 0xAA)).length = 3584 := by
  rw [loadable, List.length_take, List.length_replicate]
  decide

/-- RS1. -/
theorem test_reset_font :
    State.reset.readMem 0x04F = 0 ∧ State.reset.readMem 0x050 = 0xF0 ∧ State.reset.readMem 0x09E = 0x80 ∧
    State.reset.readMem 0x0A0 = 0 ∧ State.reset.mem.wf := by decide

/-! ## Witnesses: for each obligation with hypotheses, states that meet them -/

/-- DecodeAndEncodeAgree. -/
theorem test_witness_wellFormed :
    WellFormed .exact (.cls 0 0xE) ∧ WellFormed .nibble (.ret 3 7) ∧ WellFormed .exact (.unknown0 0x0EF) ∧
    WellFormed .nibble (.unknown0 0x0E1) ∧ WellFormed .exact (.unknown8 0 0 8) ∧
    WellFormed .exact (.unknownE 0 0x9F) ∧ WellFormed .exact (.unknownF 15 0x66) := by decide

/-- DecodeFollowsTheOpcodeMap: each clause's mask holds of some word. -/
theorem test_witness_masks :
    rowDecodes .nibble 0xF00F 0x0000 0xFFF0 (.cls 0 0) = false ∧
    rowDecodes .nibble 0xF00F 0x0000 0x0FF0 (.cls 15 15) = true ∧
    rowDecodes .nibble 0xF00F 0x000E 0x000E (.ret 0 0) = true ∧
    rowDecodes .exact 0xF00F 0x8000 0x8FF0 (.ldReg 15 15) = true ∧
    rowDecodes .exact 0xF0FF 0xF065 0xFF65 (.ldRegsMem 15) = true := by decide

theorem ready_atInstruction (w : Nat) : AtInstruction (ready w) :=
  ⟨rfl, rfl, show (0x200 : Word).toNat < 0xFFF by decide⟩

/-- StepRunsTheDecodedInstruction, at the last address an instruction is fetched from. -/
theorem test_witness_atInstruction :
    AtInstruction ({ State.reset with pc := 0xFFE }.withFetchWord 16 0x6142) ∧
    ({ State.reset with pc := 0xFFE }.withFetchWord 16 0x6142).fetchWord = 0x6142 :=
  ⟨⟨by decide, by decide, by decide⟩, by decide⟩

/-- UnknownWordsAreNoOps: each clause. -/
theorem test_witness_unknown :
    (ready 0x00EF).fetchWord = 0x00EF ∧ (ready 0x00EF).cfg.group0Decode = .exact ∧
    { ready 0x00E1 with cfg := { Config.resetLatches with group0Decode := .nibble } }.fetchWord = 0x00E1 ∧
    (fieldsOf 0x00E1).n ≠ 0x0 ∧ (fieldsOf 0x00E1).n ≠ 0xE ∧
    (ready 0x8008).fetchWord &&& 0xF000 = 0x8000 ∧ (fieldsOf 0x800F).n = 0xF ∧
    (ready 0xE0A2).fetchWord &&& 0xF000 = 0xE000 ∧ (fieldsOf 0xE0A2).nn ∉ [0x9E#8, 0xA1#8] ∧
    (ready 0xF066).fetchWord &&& 0xF000 = 0xF000 ∧ (fieldsOf 0xF066).nn = 0x66 := by decide

/-- LoopCheckHaltsTheRun, at the lowest pc that ends a run. -/
theorem test_witness_halt :
    { ready 0 with pc := 0xFFF }.runState = .running ∧ { ready 0 with pc := 0xFFF }.phase = .exec ∧
    0xFFF ≤ { ready 0 with pc := 0xFFF }.pc.toNat := by decide

/-- FaultingStepIsPrecise, OnlyTheListedConditionsFault: each condition, at its boundary. -/
theorem test_witness_faultCondition :
    faultCondition (.call 0x400) { ready 0x2400 with sp := 16 } = some .stackOverflow ∧
    faultCondition (.call 0x400) { ready 0x2400 with sp := 15 } = none ∧
    faultCondition (.ret 0 0xE) (ready 0x00EE) = some .stackUnderflow ∧
    faultCondition (.ret 0 0xE) { ready 0x00EE with sp := 1 } = none ∧
    faultCondition (.ldB 5) { ready 0xF533 with I := 0xFFE } = some .memoryOutOfRange ∧
    faultCondition (.ldB 5) { ready 0xF533 with I := 0xFFD } = none ∧
    faultCondition (.drw 0 1 0) { ready 0xD010 with I := 0xFFFF } = none := by decide

/-- OnlyAResetFollowsAnEndedRun: the states of its clauses. -/
theorem test_witness_ended :
    State.reset.runState = .idle ∧ State.reset.hostIn = [] ∧ (ready 0).halt.runState = .halted ∧
    (ready 0).halt.hostIn = [] ∧ ((ready 0).faultEntry .stackOverflow).runState = .faulted ∧
    { (ready 0).halt with hostIn := [.reset Config.defaultFont] }.hostIn = [.reset Config.defaultFont] ∧
    { (ready 0).halt with hostIn := [.config Config.resetLatches] }.hostIn = [.config Config.resetLatches] ∧
    { (ready 0).halt with hostIn := [.load []] }.hostIn = [.load []] ∧
    { (ready 0).halt with hostIn := [.start] }.hostIn = [.start] := by decide

/-- InstructionsChangeOnlyWhatTheyMay: each list has an instruction outside it. -/
theorem test_witness_frames :
    mayWriteReg (.ldRegsMem 3) 4 = false ∧ mayWriteI (.ldB 3) = false ∧ mayWritePc (.drw 0 1 5) = false ∧
    reachesStack (.jp 0) = false ∧ writesDisplay (.ldB 3) = false ∧ storesMemory (.ldRegsMem 3) = false := by decide

/-- FlagsAreZeroOrOne: each instruction that defines the flag. -/
theorem test_witness_flags :
    (definesFlag (.addReg 0 1) && definesFlag (.sub 0 1) && definesFlag (.subn 0 1) && definesFlag (.shr 0 1) &&
      definesFlag (.shl 0 1) && definesFlag (.drw 0 1 15)) = true ∧
    faultCondition (.drw 0 1 15) { ready 0 with I := 0xFF1 } = none ∧
    faultCondition (.shl 0 1) (ready 0) = none := by decide

/-- ShiftsWriteTheFlagLast, JumpsComplete, DumpThenLoadRestoresTheRegisters: both values of each quirk, and the
register at both ends of NNN. -/
theorem test_witness_quirks :
    (ready 0).cfg.qShift = false ∧ (quirky (ready 0)).cfg.qShift = true ∧
    (ready 0).cfg.qJump = false ∧ (quirky (ready 0)).cfg.qJump = true ∧ (ready 0).cfg.qIncr = false ∧
    (15 : Reg).val = (0xFFF : Addr).toNat / 256 ∧ (0 : Reg).val = (0x0FF : Addr).toNat / 256 := by decide

/-- CallAndReturnComplete, StackSignalsFollowThePolicy: the stack at each limit, under each policy. -/
theorem test_witness_stack :
    { ready 0 with sp := 15 }.sp < 16 ∧ 0 < { ready 0 with sp := 1 }.sp ∧ { ready 0 with sp := 16 }.sp ≤ 16 ∧
    { ready 0 with sp := 16 }.sp = 16 ∧ (ready 0).sp = 0 ∧ (ready 0).cfg.stackErrorPolicy = .halt ∧
    { Config.resetLatches with stackErrorPolicy := .cont }.stackErrorPolicy = .cont := by decide

/-- ReturnComesBackFromTheCall: the sixteenth call. -/
theorem test_witness_callThenReturn :
    ∃ s t : State, s.sp = 15 ∧ s.sp < 16 ∧ exec (.call 0x400) s = .next t ∧ t.sp = 16 :=
  ⟨{ ready 0 with sp := 15 }, _, rfl, by decide, exec_call_of_room _ (by decide), rfl⟩

/-- RegisterDumpStoresTheRegisters, RegisterLoadReadsMemory, DecimalDigitsAreStored, OutOfRangeAccessHasNoEffect:
canonical memory, the last range that fits and the first that does not. -/
theorem test_witness_range :
    (poke (ready 0) 0x400 7).mem.wf ∧
    { ready 0 with I := 0xFF0 }.I.toNat + (15 : Reg).val ≤ 0xFFF ∧
    0xFFF < { ready 0 with I := 0xFF1 }.I.toNat + (15 : Reg).val ∧
    { ready 0 with I := 0xFFD }.I.toNat + 2 ≤ 0xFFF ∧ 0xFFF < { ready 0 with I := 0xFFE }.I.toNat + 2 ∧
    bytesThroughI (.ldMemRegs 15) ≠ 0 ∧
    0xFFF < { ready 0 with I := 0xFF1 }.I.toNat + bytesThroughI (.ldMemRegs 15) - 1 ∧
    (0 : Reg) ≤ 15 ∧ (3 : Reg) < 4 := by decide

/-- DumpThenLoadRestoresTheRegisters: a dump at the top of memory and the state it leaves. -/
theorem test_witness_dump :
    ∃ s t : State, s.mem.wf ∧ s.I.toNat + (1 : Reg).val = 0xFFF ∧ s.cfg.qIncr = false ∧
      exec (.ldMemRegs 1) s = .next t ∧ t.I = s.I :=
  ⟨{ ready 0 with I := 0xFFE }, _, by decide, by decide, rfl, rfl, by decide⟩

/-- StoredBytesAreFetched: canonical memory, and each clause of each store at the cells where the clauses meet. -/
theorem test_witness_stored : ∃ s d : State, s.mem.wf ∧ s.I.toNat + (1 : Reg).val = 0xFFF ∧
    CellAfterDump s 1 0xFFD 0 ∧ CellAfterDump s 1 0xFFE 7 ∧ CellAfterDump s 1 0xFFF 8 ∧ CellAfterDump s 1 0x1000 0 ∧
    d.mem.wf ∧ d.I.toNat + 2 = 0xFFF ∧ CellAfterDigits d 5 0xFFC 0 ∧ CellAfterDigits d 5 0xFFD 1 ∧
    CellAfterDigits d 5 0xFFE 2 ∧ CellAfterDigits d 5 0xFFF 3 ∧ CellAfterDigits d 5 0x1000 0 :=
  ⟨{ ((ready 0).setV 0 7).setV 1 8 with I := 0xFFE }, { (ready 0).setV 5 123 with I := 0xFFD },
    by decide, by decide, .inr (by decide), .inl ⟨0, by decide⟩, .inl ⟨1, by decide⟩, .inr (by decide),
    by decide, by decide, .inr (.inr (.inr (by decide))), .inl (by decide), .inr (.inl (by decide)),
    .inr (.inr (.inl (by decide))), .inr (.inr (.inr (by decide)))⟩

/-- RowMaskPlacesThePixels: the columns where the shift changes direction, and the last. -/
theorem test_witness_rowMask :
    rowMask 0x81 56 = 0x81 ∧ rowMask 0x81 57 = 0x40 ∧ rowMask 0x81 55 = 0x102 ∧ rowMask 0xFF 63 = 1 ∧
    rowMask 0x81 0 = 0x8100000000000000 := by decide

/-- DrawXorsTheSprite, DrawingTwiceRestoresTheDisplay: no rows, the last range that fits, a row that wraps, a
row that is clipped, and a draw after which both coordinates are as before. -/
theorem test_witness_draw :
    (0 : Nibble) = 0 ∧ { ready 0 with I := 0xFFD }.I.toNat + (3 : Nibble).toNat - 1 ≤ 0xFFF ∧
    LandsOn .wrap (31 + 1) 0 ∧ LandsOn .wrap 31 31 ∧ LandsOn .clip 31 31 ∧ (∀ k, ¬ LandsOn .clip 32 k) ∧
    ∃ s t : State, exec (.drw 0 1 5) s = .next t ∧ t.getV 0 = s.getV 0 ∧ t.getV 1 = s.getV 1 ∧
      t.getV VF = 0 :=
  ⟨rfl, by decide, rfl, rfl, rfl, fun k h => absurd (h : k.val = 32) (Nat.ne_of_lt k.isLt),
    { ready 0 with I := 0x050 }, _, rfl, by decide, by decide, by decide⟩

/-- The clause of R84 that is not followed (log 7): a sprite over exactly its own pixels. The first DXYN turns
them off; the second turns them on again, so R83 gives VF = 0 though the mask is not zero. -/
theorem test_draw_twice_over_itself :
    stepped (poke { ready 0xD011 with I := 0x400, fb := (Vector.replicate 32 0).set 0 0x8000000000000000 } 0x400 0x80)
      (fun t => t.getV 15 == 1 && stepped { t with pc := 0x200, phase := .exec }
        (fun u => u.getV 15 == 0 && u.fb.get 0 == 0x8000000000000000)) = true := by decide

/-- DelayTimerReadsAfterTicks. -/
theorem test_witness_delay : ∃ t, exec (.ldDtVx 3) ((ready 0).setV 3 0x3C) = .next t ∧ t.dt = 0x3C :=
  ⟨_, rfl, by decide⟩

/-- A run in its wait phase with the two deadlines given. -/
def waiting (dInsn dTick : Rat) : State := { ready 0 with phase := .wait, dInsn := dInsn, dTick := dTick }

/-- WaitTurnChecksTheInstructionDeadlineFirst, TicksFallOnlyInTheWaitPhase: whatever the sample is, some
deadlines fall under each clause, the first at its boundary. -/
theorem test_witness_wait : ∃ d : Rat,
    (waiting d d).runState = .running ∧ (waiting d d).phase = .wait ∧
    step (waiting d d) = .next (waiting d d).sample.poll ∧
    (waiting d d).sample.poll.phase = .exec ∧
    (waiting (d + 1) d).sample.poll.frames ≠ (waiting (d + 1) d).frames ∧
    (waiting (d + 1) (d + 1)).sample.poll = (waiting (d + 1) (d + 1)).sample := by
  obtain ⟨d, hs⟩ : ∃ d, ∀ a b, (waiting a b).sample.now = d :=
    ⟨(waiting 0 0).sample.now, fun _ _ => rfl⟩
  refine ⟨d, rfl, rfl, rfl, ?_, ?_, ?_⟩
  · have h : (waiting d d).sample.dInsn ≤ (waiting d d).sample.now := by rw [hs]; exact le_refl d
    rw [State.poll, if_pos h]
  · have h : ¬ (waiting (d + 1) d).sample.dInsn ≤ (waiting (d + 1) d).sample.now := by
      rw [hs]; show ¬ d + 1 ≤ d; linarith
    have h' : (waiting (d + 1) d).sample.dTick ≤ (waiting (d + 1) d).sample.now := by rw [hs]; exact le_refl d
    rw [State.poll, if_neg h, if_pos h']
    simp [waiting]
  · have h : ¬ (waiting (d + 1) (d + 1)).sample.dInsn ≤ (waiting (d + 1) (d + 1)).sample.now := by
      rw [hs]; show ¬ d + 1 ≤ d; linarith
    have h' : ¬ (waiting (d + 1) (d + 1)).sample.dTick ≤ (waiting (d + 1) (d + 1)).sample.now := by
      rw [hs]; show ¬ d + 1 ≤ d; linarith
    rw [State.poll, if_neg h, if_neg h']

/-- A run at IPS = 60, at its first instruction, with a clock of 0 at START. -/
def atStart (w : Nat) : State :=
  { ready w with cfg := { Config.resetLatches with ips := 60 }, dInsn := 1 / 60, dTick := 1 / 60 }

/-- EveryStepKeepsTheSchedule: a state in a run that meets the invariant and has a next step. -/
theorem test_witness_schedule : (atStart 0x6105).SchedInv ∧ ∃ t, step (atStart 0x6105) = .next t :=
  ⟨⟨by decide, by decide, fun _ => ⟨0, by norm_num [atStart, ready, State.withFetchWord, State.reset],
      by norm_num [atStart, ready, State.withFetchWord, State.reset], by decide⟩⟩, _, rfl⟩

/-- EveryStepKeepsTheInvariant: the same. -/
theorem test_witness_invariant : (atStart 0x6105).Inv ∧ ∃ t, step (atStart 0x6105) = .next t :=
  ⟨⟨by decide, by decide, fun k _ hk => absurd hk (Nat.not_lt_zero k), by decide, by decide, by decide, by decide,
      by decide, by decide, by decide⟩, _, rfl⟩

/-- StartSetsTheDeadlines, LoadStoresTheProgram, ConfigWritesTheLatches: an IDLE block with each transaction, IPS
at 0 and at 1, before and after a LOAD, and a byte that goes to the last cell. -/
theorem test_witness_host :
    State.reset.runState = .idle ∧ State.reset.mem.wf ∧ State.reset.loaded = false ∧
    { State.reset with loaded := true }.loaded = true ∧ State.reset.cfg.ips = 0 ∧
    1 ≤ { Config.resetLatches with ips := 1 }.ips ∧
    { State.reset with hostIn := [.start] }.hostIn = [.start] ∧
    { State.reset with hostIn := [.load [1, 2]] }.hostIn = [.load [1, 2]] ∧
    { State.reset with hostIn := [.config Config.resetLatches] }.hostIn = [.config Config.resetLatches] ∧
    0x200 + 3583 ≤ 0xFFF ∧ 0x200 + 3584 > 0xFFF := by decide

/-- RS6, RS7: what is refused. -/
theorem test_refusals :
    step { State.reset with hostIn := [.config Config.resetLatches] } = .refused .configIpsZero ∧
    step { State.reset with hostIn := [.start] } = .refused .startIpsZero ∧
    step { State.reset with hostIn := [.load []], loaded := true } = .refused .secondLoad ∧
    step { (ready 0).halt with hostIn := [.start] } = .refused .notIdle := ⟨rfl, rfl, rfl, rfl⟩

/-- ResetTransactionResetsTheMachine: a block before its run and one whose run has ended, each with a reset pending. -/
theorem test_witness_reset :
    State.reset.runState ≠ .running ∧ (ready 0).halt.runState ≠ .running ∧
    ((ready 0).faultEntry .stackOverflow).runState ≠ .running ∧
    { (ready 0).halt with hostIn := [.reset Config.defaultFont, .start] }.hostIn =
      [.reset Config.defaultFont, .start] := by decide

/-- ResetSequenceLoadsTheFont: the last byte of a FONT. -/
theorem test_witness_font : Config.defaultFont[79] = 0x80 ∧ (State.resetWith (Vector.replicate 80 7)).readMem 0x09F = 7 := by
  decide

end Sys2Proof.Tests
end

/-! # Encoding: the fields of a word, and the unknown words (30_encoding.md R66, R73) -/

namespace Sys2Proof

/-! ## The fields of a word, joined (R66) -/

/-- Two neighbouring fields join to one field of the word, for NN (R64). -/
theorem fieldsOf_nn (w : Word) : (fieldsOf w).nn = regBits (fieldsOf w).y ++ (fieldsOf w).n := by
  simp only [fieldsOf, regBits_regOf, BitVec.extractLsb'_append_extractLsb'_eq_extractLsb']

/-- The same for NNN, from X and NN (R64). -/
theorem fieldsOf_nnn (w : Word) : (fieldsOf w).nnn = regBits (fieldsOf w).x ++ (fieldsOf w).nn := by
  simp only [fieldsOf, regBits_regOf, BitVec.extractLsb'_append_extractLsb'_eq_extractLsb']

/-- Re-assembling a word of the form op NNN from its fields (R66). -/
theorem assembleNNN_fieldsOf (w : Word) : assembleNNN (fieldsOf w).op (fieldsOf w).nnn = w := by
  simp only [assembleNNN, fieldsOf, BitVec.extractLsb'_append_extractLsb'_eq_extractLsb',
    BitVec.extractLsb'_eq_self]

/-- Re-assembling a word of the form op X NN from its fields (R66). -/
theorem assembleNN_fieldsOf (w : Word) : assembleNN (fieldsOf w).op (fieldsOf w).x (fieldsOf w).nn = w := by
  simp only [assembleNN, fieldsOf, regBits_regOf, BitVec.extractLsb'_append_extractLsb'_eq_extractLsb',
    BitVec.extractLsb'_eq_self]

/-- Re-assembling a word from its four nibbles (R66). -/
theorem assemble_fieldsOf (w : Word) :
    assemble (fieldsOf w).op (fieldsOf w).x (fieldsOf w).y (fieldsOf w).n = w := by
  simp only [assemble, fieldsOf, regBits_regOf, BitVec.extractLsb'_append_extractLsb'_eq_extractLsb',
    BitVec.extractLsb'_eq_self]

/-- The masked words of R72 and R73 fix op. -/
theorem fieldsOf_op_of_mask {w m : Word} (h : w &&& 0xF000 = m) : (fieldsOf w).op = m.extractLsb' 12 4 :=
  calc w.extractLsb' 12 4 = w.extractLsb' 12 4 &&& BitVec.allOnes 4 := BitVec.and_allOnes.symm
    _ = (w &&& 0xF000).extractLsb' 12 4 := by rw [BitVec.extractLsb'_and]; rfl
    _ = m.extractLsb' 12 4 := by rw [h]

/-- Settles O2: each equation of R66 is a joining of neighbouring fields, written with shifts. -/
theorem fieldsReassembleTheWord : Obligations.FieldsReassembleTheWord := by
  unfold Obligations.FieldsReassembleTheWord
  intro w
  refine ⟨?_, ?_, ?_⟩
  · calc w = (assemble (fieldsOf w).op (fieldsOf w).x (fieldsOf w).y (fieldsOf w).n).setWidth 16 := by
          rw [assemble_fieldsOf, BitVec.setWidth_eq]
      _ = _ := BitVec.setWidth_append_append_append_eq_shiftLeft_setWidth_or
  · rw [fieldsOf_nn, ← BitVec.setWidth_append_eq_shiftLeft_setWidth_or, BitVec.setWidth_eq]
  · rw [fieldsOf_nnn, ← BitVec.setWidth_append_eq_shiftLeft_setWidth_or, BitVec.setWidth_eq]

/-! ## The words that decode to an unknown constructor (R73) -/

section
variable {g : Group0Decode} {i : Instr} {w : Word}

/-- A word that encodes a well-formed instruction decodes to it. -/
theorem decode_eq_of_encode (hrt : Laws.RoundTrip.Statement i) (hwf : WellFormed g i = true)
    (hw : encode i = w) : decode g w = i := hw ▸ hrt g hwf

/-- In group 0 a word that is neither CLS nor RET under the match is unknown. -/
theorem decode_group0_unknown (hop : (fieldsOf w).op = 0x0) (hk : group0Known g (fieldsOf w).nnn = false) :
    decode g w = .unknown0 (fieldsOf w).nnn :=
  decode_eq_of_encode (Laws.RoundTrip.unknown0 _) (by simp [WellFormed, hk])
    (by rw [encode, ← hop, assembleNNN_fieldsOf])

/-- In group 8 a word whose N selects no operation is unknown. -/
theorem decode_group8_unknown (hop : (fieldsOf w).op = 0x8) (hk : group8Known (fieldsOf w).n = false) :
    decode g w = .unknown8 (fieldsOf w).x (fieldsOf w).y (fieldsOf w).n :=
  decode_eq_of_encode (Laws.RoundTrip.unknown8 _ _ _) (by simp [WellFormed, hk])
    (by rw [encode, ← hop, assemble_fieldsOf])

/-- In group E a word whose NN selects no operation is unknown. -/
theorem decode_groupE_unknown (hop : (fieldsOf w).op = 0xE) (hk : groupEKnown (fieldsOf w).nn = false) :
    decode g w = .unknownE (fieldsOf w).x (fieldsOf w).nn :=
  decode_eq_of_encode (Laws.RoundTrip.unknownE _ _) (by simp [WellFormed, hk])
    (by rw [encode, ← hop, assembleNN_fieldsOf])

/-- In group F a word whose NN selects no operation is unknown. -/
theorem decode_groupF_unknown (hop : (fieldsOf w).op = 0xF) (hk : groupFKnown (fieldsOf w).nn = false) :
    decode g w = .unknownF (fieldsOf w).x (fieldsOf w).nn :=
  decode_eq_of_encode (Laws.RoundTrip.unknownF _ _) (by simp [WellFormed, hk])
    (by rw [encode, ← hop, assembleNN_fieldsOf])

end

/-- Under the exact match, the only known words of group 0 are 00E0 and 00EE (R68). -/
theorem group0Known_exact_of_ne {w : Word} (hop : (fieldsOf w).op = 0x0) (hcls : w ≠ 0x00E0)
    (hret : w ≠ 0x00EE) : group0Known .exact (fieldsOf w).nnn = false := by
  have ne_of_word {a : Addr} (h : w ≠ assembleNNN 0x0 a) : (fieldsOf w).nnn ≠ a := fun e =>
    h (by rw [← e, ← hop, assembleNNN_fieldsOf])
  simpa [group0Known] using And.intro (ne_of_word (a := 0x0E0) hcls) (ne_of_word (a := 0x0EE) hret)

/-- Under the nibble match, the words of group 0 with another N than 0 and E are not known (R68). -/
theorem group0Known_nibble_of_ne {w : Word} (hcls : (fieldsOf w).n ≠ 0x0) (hret : (fieldsOf w).n ≠ 0xE) :
    group0Known .nibble (fieldsOf w).nnn = false := by
  have low : (fieldsOf w).nnn.extractLsb' 0 4 = (fieldsOf w).n := by
    have h := congrArg Fields.n (fieldsOf_assembleNNN (fieldsOf w).op (fieldsOf w).nnn)
    rw [assembleNNN_fieldsOf] at h
    exact h.symm
  simpa [group0Known, low] using And.intro hcls hret

/-- The values of N that R73 lists for group 8 are not known. -/
theorem group8Known_of_listed :
    ∀ n ∈ [0x8#4, 0x9#4, 0xA#4, 0xB#4, 0xC#4, 0xD#4, 0xF#4], group8Known n = false := by decide

theorem groupEKnown_of_not_listed {nn : Byte} (h : nn ∉ [0x9E#8, 0xA1#8]) : groupEKnown nn = false := by
  simpa [groupEKnown] using h

theorem groupFKnown_of_not_listed {nn : Byte}
    (h : nn ∉ [0x07#8, 0x0A#8, 0x15#8, 0x18#8, 0x1E#8, 0x29#8, 0x33#8, 0x55#8, 0x65#8]) :
    groupFKnown nn = false := by
  simpa [groupFKnown, and_assoc] using h

namespace Machine

/-! ## One step at an instruction without effect (R73, R75, R141) -/

section
variable (s : State)

@[simp] theorem exec_unknown0 (nnn : Addr) : exec (.unknown0 nnn) s = .next s := rfl
@[simp] theorem exec_unknown8 (x y : Reg) (n : Nibble) : exec (.unknown8 x y n) s = .next s := rfl
@[simp] theorem exec_unknownE (x : Reg) (nn : Byte) : exec (.unknownE x nn) s = .next s := rfl
@[simp] theorem exec_unknownF (x : Reg) (nn : Byte) : exec (.unknownF x nn) s = .next s := rfl

end

/-- The execute phase of an instruction that did not end the run goes on to the wait phase (R141). -/
theorem State.endExecute_of_ne_stopped {t : State} (h : t.phase ≠ .stopped) :
    t.endExecute = { t with phase := .wait } := by
  unfold State.endExecute
  split
  · exact absurd ‹_› h
  · rfl

/-- With an instruction to execute, a step is that instruction on the state after the fetch advance, and the
end of the execute phase (R75, R141). -/
theorem step_of_exec {s t : State} (hs : AtInstruction s)
    (hx : exec (decode s.cfg.group0Decode s.fetchWord) s.advance = .next t) :
    step s = .next t.endExecute := by
  obtain ⟨hrun, hphase, hpc⟩ := hs
  have hslot : ¬ s.pc.toNat ≥ Config.haltPc := Nat.not_le.mpr hpc
  simp only [step, hrun, hphase, insnSlot, if_neg hslot, hx]

/-- A step with an instruction whose handler leaves the state as it is changes pc, by 2, and the phase. -/
theorem step_of_exec_id {s : State} (hs : AtInstruction s)
    (hx : ∀ t, exec (decode s.cfg.group0Decode s.fetchWord) t = .next t) :
    step s = .next { s with pc := s.pc + 2, phase := .wait } := by
  have ⟨_, hphase, _⟩ := hs
  have running : s.advance.phase ≠ .stopped := by simp [hphase]
  rw [step_of_exec hs (hx _), State.endExecute_of_ne_stopped running]
  rfl

/-- Settles O5: the word of each clause decodes to the unknown constructor of its group, whose handler leaves
the state as it is. -/
theorem unknownWordsAreNoOps : Obligations.UnknownWordsAreNoOps := by
  unfold Obligations.UnknownWordsAreNoOps
  refine ⟨fun s hs hword => step_of_exec_id hs fun t => ?_, fun s x y n nn nnn =>
    ⟨exec_unknown0 s nnn, exec_unknown8 s x y n, exec_unknownE s x nn, exec_unknownF s x nn⟩⟩
  obtain ⟨hg, hm, hcls, hret⟩ | ⟨hg, hm, hcls, hret⟩ | ⟨hm, hn⟩ | ⟨hm, hnn⟩ | ⟨hm, hnn⟩ := hword
  · have hop := fieldsOf_op_of_mask hm
    rw [hg, decode_group0_unknown hop (group0Known_exact_of_ne hop hcls hret), exec_unknown0]
  · rw [hg, decode_group0_unknown (fieldsOf_op_of_mask hm) (group0Known_nibble_of_ne hcls hret), exec_unknown0]
  · rw [decode_group8_unknown (fieldsOf_op_of_mask hm) (group8Known_of_listed _ hn), exec_unknown8]
  · rw [decode_groupE_unknown (fieldsOf_op_of_mask hm) (groupEKnown_of_not_listed hnn), exec_unknownE]
  · rw [decode_groupF_unknown (fieldsOf_op_of_mask hm) (groupFKnown_of_not_listed hnn), exec_unknownF]

end Machine

end Sys2Proof

/-! # The display (40_display.md R79, R81) -/

namespace Sys2Proof.Machine

@[simp] theorem exec_cls (x y : Reg) (s : State) :
    exec (.cls x y) s = .next { s with fb := Vector.replicate 32 0 } := rfl

/-- Settles O30: the display CLS answers is 32 rows of 0, and no other field is written. -/
theorem clearDisplayCompletes : Obligations.ClearDisplayCompletes := by
  unfold Obligations.ClearDisplayCompletes
  intro s x y
  have rows_zero (k : Fin 32) : (Vector.replicate 32 (0 : Row)).get k = 0 := Vector.getElem_replicate k.isLt
  exact ⟨_, exec_cls x y s, rows_zero, rfl, fun _ => rfl⟩

/-- Widening a byte to a row adds only bits that are 0. -/
theorem zeroExtend_row_getLsbD (b : Byte) (k : Nat) : (b.zeroExtend 64).getLsbD k = b.getLsbD k := by
  rw [BitVec.getLsbD_setWidth, Bool.and_eq_right_iff_imp]
  intro hbit
  exact decide_eq_true ((BitVec.lt_of_getLsbD hbit).trans (by decide))

/-- R81 by bits: the two shifts are one shift by the signed distance col - 56, so bit j of the mask is the
byte's bit j + col - 56. -/
theorem rowMask_getLsbD (b : Byte) (col : Nat) {j : Nat} (hj : j < 64) :
    (rowMask b col).getLsbD j = (decide (56 ≤ j + col) && b.getLsbD (j + col - 56)) := by
  unfold rowMask
  split
  case isTrue =>
    have index : j - (56 - col) = j + col - 56 := by omega
    have shifted_in : ¬ j < 56 - col ↔ 56 ≤ j + col := by omega
    simp only [BitVec.getLsbD_shiftLeft, zeroExtend_row_getLsbD, index, ← shifted_in, hj, decide_true,
      Bool.true_and, decide_not]
  case isFalse =>
    have index : col - 56 + j = j + col - 56 := by omega
    have shifted_in : 56 ≤ j + col := by omega
    simp only [BitVec.getLsbD_ushiftRight, zeroExtend_row_getLsbD, index, shifted_in, decide_true,
      Bool.true_and]

/-- Settles O31: column c is bit 63 - c of the row, hence the byte's bit col + 7 - c, which lies past bit 7
for the columns left of col. -/
theorem rowMaskPlacesThePixels : Obligations.RowMaskPlacesThePixels := by
  unfold Obligations.RowMaskPlacesThePixels
  intro b col c _ hc
  have index : 63 - c + col - 56 = col + 7 - c := by omega
  have right_edge : 56 ≤ 63 - c + col ↔ c ≤ col + 7 := by omega
  simp only [rowMask_getLsbD b col (show 63 - c < 64 by omega), index, right_edge]
  by_cases left_edge : col ≤ c
  · simp only [left_edge, true_and]
  · have past_bit7 : b.getLsbD (col + 7 - c) = false := b.getLsbD_of_ge _ (by omega)
    simp only [past_bit7, Bool.and_false]

end Sys2Proof.Machine

/-! # Control transfer: the jumps and the skips (41_control_flow.md R86, R87, R90 to R93) -/

namespace Sys2Proof.Machine

/-! ## The jumps (R86, R87) -/

@[simp] theorem exec_jp (nnn : Addr) (s : State) : exec (.jp nnn) s = .next { s with pc := addrOf nnn } := rfl

@[simp] theorem exec_jpV0 (nnn : Addr) (s : State) :
    exec (.jpV0 nnn) s =
      .next { s with pc := addrOf nnn + (s.getV (s.jumpReg nnn)).zeroExtend 16 } := rfl

@[simp] theorem addrOf_toNat (nnn : Addr) : (addrOf nnn).toNat = nnn.toNat :=
  BitVec.toNat_setWidth_of_le (by decide)

/-- The target of BNNN is at most 0x10FE, so the sum of 16 bits does not wrap (R87). -/
theorem addrOf_add_zeroExtend_toNat (nnn : Addr) (b : Byte) :
    (addrOf nnn + b.zeroExtend 16).toNat = nnn.toNat + b.toNat := by
  have widened : (b.zeroExtend 16).toNat = b.toNat := BitVec.toNat_setWidth_of_le (by decide)
  have no_wrap : nnn.toNat + b.toNat < 2 ^ 16 := by
    have := nnn.isLt
    have := b.isLt
    omega
  rw [BitVec.toNat_add, addrOf_toNat, widened, Nat.mod_eq_of_lt no_wrap]

/-- BNNN adds V0 when Q_JUMP is clear (R87). -/
theorem State.jumpReg_of_clear {s : State} (nnn : Addr) (hq : s.cfg.qJump = false) : s.jumpReg nnn = 0 := by
  simp [State.jumpReg, hq]

/-- BNNN adds the register that NNN[11:8] selects when Q_JUMP is set (R87). -/
theorem State.jumpReg_of_set {s : State} {nnn : Addr} {x : Reg} (hq : s.cfg.qJump = true)
    (hx : x.val = nnn.toNat / 256) : s.jumpReg nnn = x := by
  have selected : nnn.extractLsb' 8 4 = regBits x := by
    apply BitVec.eq_of_toNat_eq
    calc (nnn.extractLsb' 8 4).toNat = nnn.toNat / 256 % 16 := by
          rw [BitVec.extractLsb'_toNat, Nat.shiftRight_eq_div_pow]
      _ = x.val := by rw [← hx, Nat.mod_eq_of_lt x.isLt]
  rw [State.jumpReg, if_pos hq, regOf_eq_of_bits selected]

/-- Settles O18: the target is a natural below 2^16, and the added register is the one Q_JUMP names. -/
theorem jumpsComplete : Obligations.JumpsComplete := by
  unfold Obligations.JumpsComplete
  intro s nnn
  refine ⟨⟨_, exec_jp nnn s, addrOf_toNat nnn, rfl, fun _ => rfl⟩, fun hq => ?_, fun hq x hx => ?_⟩
  · refine ⟨_, exec_jpV0 nnn s, ?_, rfl, fun _ => rfl⟩
    rw [State.jumpReg_of_clear nnn hq, addrOf_add_zeroExtend_toNat]
  · refine ⟨_, exec_jpV0 nnn s, ?_, rfl, fun _ => rfl⟩
    rw [State.jumpReg_of_set hq hx, addrOf_add_zeroExtend_toNat]

/-! ## The skips (R90 to R93) -/

section
variable (s : State) (x y : Reg) (nn : Byte) (n : Nibble)

@[simp] theorem exec_seImm : exec (.seImm x nn) s = .next (s.skipIf (s.getV x == nn)) := rfl
@[simp] theorem exec_sneImm : exec (.sneImm x nn) s = .next (s.skipIf (s.getV x != nn)) := rfl
@[simp] theorem exec_seReg : exec (.seReg x y n) s = .next (s.skipIf (s.getV x == s.getV y)) := rfl
@[simp] theorem exec_sneReg : exec (.sneReg x y n) s = .next (s.skipIf (s.getV x != s.getV y)) := rfl

end

/-- A skip on equality adds 2 to pc when the bytes agree (R90, R92). -/
theorem State.skipIf_beq (s : State) (a b : Byte) :
    s.skipIf (a == b) = { s with pc := if a = b then s.pc + 2 else s.pc } := by
  by_cases h : a = b <;> simp [State.skipIf, h]

/-- A skip on inequality adds 2 to pc when the bytes differ (R91, R93). -/
theorem State.skipIf_bne (s : State) (a b : Byte) :
    s.skipIf (a != b) = { s with pc := if a = b then s.pc else s.pc + 2 } := by
  by_cases h : a = b <;> simp [State.skipIf, h]

/-- Settles O19: each skip is `skipIf` on one of the two comparisons. -/
theorem skipsComplete : Obligations.SkipsComplete := by
  unfold Obligations.SkipsComplete
  intro s x y nn n
  refine ⟨?_, ?_, ?_, ?_⟩
  · rw [exec_seImm, State.skipIf_beq]
  · rw [exec_sneImm, State.skipIf_bne]
  · rw [exec_seReg, State.skipIf_beq]
  · rw [exec_sneReg, State.skipIf_bne]

end Sys2Proof.Machine

/-! # Arithmetic and logic (42_alu.md R94 to R106) -/

namespace Sys2Proof.Machine

/-! ## The effects: one register, or a result and then a flag (R95) -/

/-- `setV` writes its one register. -/
theorem State.onlyReg_setV (s : State) (x : Reg) (b : Byte) : OnlyReg s (s.setV x b) x b :=
  ⟨s.getV_setV x b, fun _ hr => s.getV_setV_ne b hr, rfl, s.readMem_setV x b⟩

/-- `setVFlag` writes its result and then its flag, both here as naturals. -/
theorem State.onlyRegAndFlag_setVFlag (s : State) (x : Reg) {b f : Byte} {result flag : Nat}
    (hb : b.toNat = result) (hf : f.toNat = flag) : OnlyRegAndFlag s (s.setVFlag x b f) x result flag := by
  refine ⟨?_, fun hx => ?_, fun r hr hrF => ?_, s.setVFlag_eq x b f, s.readMem_setVFlag x b f⟩
  · rw [s.getV_setVFlag_VF, hf]
  · rw [s.getV_setVFlag, if_neg hx, if_pos rfl, hb]
  · rw [s.getV_setVFlag, if_neg hrF, if_neg hr]

/-! ## Load, add-constant, copy, OR, AND and XOR (R96 to R101) -/

section
variable (s : State) (x y : Reg) (nn : Byte)

@[simp] theorem exec_ldImm : exec (.ldImm x nn) s = .next (s.setV x nn) := rfl
@[simp] theorem exec_addImm : exec (.addImm x nn) s = .next (s.setV x (s.getV x + nn)) := rfl
@[simp] theorem exec_ldReg : exec (.ldReg x y) s = .next (s.setV x (s.getV y)) := rfl
@[simp] theorem exec_or : exec (.or x y) s = .next (s.setV x (s.getV x ||| s.getV y)) := rfl
@[simp] theorem exec_and : exec (.and x y) s = .next (s.setV x (s.getV x &&& s.getV y)) := rfl
@[simp] theorem exec_xor : exec (.xor x y) s = .next (s.setV x (s.getV x ^^^ s.getV y)) := rfl

end

/-- Settles O14: each answers `setV` with its result; ADD's wrapped sum is the sum modulo 256. -/
theorem plainRegisterOperationsComplete : Obligations.PlainRegisterOperationsComplete := by
  unfold Obligations.PlainRegisterOperationsComplete
  intro s x y nn
  have wrapped_sum : s.getV x + nn = BitVec.ofNat 8 (((s.getV x).toNat + nn.toNat) % 256) := by
    apply BitVec.eq_of_toNat_eq
    rw [BitVec.toNat_add, BitVec.toNat_ofNat, Nat.mod_mod]
  exact ⟨⟨_, exec_ldImm s x nn, s.onlyReg_setV x _⟩, ⟨_, exec_addImm s x nn, wrapped_sum ▸ s.onlyReg_setV x _⟩,
    ⟨_, exec_ldReg s x y, s.onlyReg_setV x _⟩, ⟨_, exec_or s x y, s.onlyReg_setV x _⟩,
    ⟨_, exec_and s x y, s.onlyReg_setV x _⟩, ⟨_, exec_xor s x y, s.onlyReg_setV x _⟩⟩

/-! ## The results and the flags as naturals (R17, R94) -/

/-- A flag is the value of its condition. -/
theorem flagOf_toNat (c : Bool) : (flagOf c).toNat = c.toNat := by
  cases c <;> rfl

/-- The flag of a proposition is 1 exactly when it holds. -/
theorem flagOf_decide_toNat (p : Prop) [Decidable p] : (flagOf (decide p)).toNat = if p then 1 else 0 := by
  by_cases h : p <;> simp [flagOf_toNat, h]

/-- The flag of bit k of a byte is that binary digit of its value. -/
theorem flagOf_getLsbD_toNat (b : Byte) (k : Nat) : (flagOf (b.getLsbD k)).toNat = b.toNat / 2 ^ k % 2 := by
  rw [flagOf_toNat, ← BitVec.testBit_toNat, Nat.toNat_testBit]

section
variable (a b : Byte)

theorem carryFlag_toNat : (carryFlag a b).toNat = if a.toNat + b.toNat > 255 then 1 else 0 :=
  flagOf_decide_toNat _

theorem noBorrowFlag_toNat : (noBorrowFlag a b).toNat = if a.toNat ≥ b.toNat then 1 else 0 :=
  flagOf_decide_toNat _

theorem shrFlag_toNat : (shrFlag b).toNat = b.toNat % 2 := by
  rw [shrFlag, flagOf_getLsbD_toNat, Nat.pow_zero, Nat.div_one]

/-- Bit 7 is the top binary digit of a byte, so it has no digit above it to drop. -/
theorem shlFlag_toNat : (shlFlag b).toNat = b.toNat / 128 := by
  have one_digit : b.toNat / 128 < 2 := Nat.div_lt_of_lt_mul b.isLt
  rw [shlFlag, flagOf_getLsbD_toNat]
  exact Nat.mod_eq_of_lt one_digit

/-- The difference modulo 256, as R105 and R106 write it. -/
theorem byte_sub_toNat : (a - b).toNat = (a.toNat + 256 - b.toNat) % 256 := by
  have := b.isLt
  rw [BitVec.toNat_sub]
  congr 1
  omega

theorem byte_shiftRight_one_toNat : (b >>> 1).toNat = b.toNat / 2 := by
  rw [BitVec.toNat_ushiftRight, Nat.shiftRight_eq_div_pow, Nat.pow_one]

theorem byte_shiftLeft_one_toNat : (b <<< 1).toNat = b.toNat * 2 % 256 := by
  rw [BitVec.toNat_shiftLeft, Nat.shiftLeft_eq, Nat.pow_one]

end

/-! ## Add, subtract and shift (R102 to R106) -/

section
variable (s : State) (x y : Reg)

@[simp] theorem exec_addReg : exec (.addReg x y) s =
    .next (s.setVFlag x (s.getV x + s.getV y) (carryFlag (s.getV x) (s.getV y))) := rfl
@[simp] theorem exec_sub : exec (.sub x y) s =
    .next (s.setVFlag x (s.getV x - s.getV y) (noBorrowFlag (s.getV x) (s.getV y))) := rfl
@[simp] theorem exec_subn : exec (.subn x y) s =
    .next (s.setVFlag x (s.getV y - s.getV x) (noBorrowFlag (s.getV y) (s.getV x))) := rfl
@[simp] theorem exec_shr : exec (.shr x y) s =
    .next (s.setVFlag x (s.shiftSource x y >>> 1) (shrFlag (s.shiftSource x y))) := rfl
@[simp] theorem exec_shl : exec (.shl x y) s =
    .next (s.setVFlag x (s.shiftSource x y <<< 1) (shlFlag (s.shiftSource x y))) := rfl

end

/-- Settles O15: each answers `setVFlag` with the wrapped result and the flag of the operands before it. -/
theorem addAndSubtractWriteTheFlagLast : Obligations.AddAndSubtractWriteTheFlagLast := by
  unfold Obligations.AddAndSubtractWriteTheFlagLast
  intro s x y
  exact ⟨⟨_, exec_addReg s x y, s.onlyRegAndFlag_setVFlag x (BitVec.toNat_add _ _) (carryFlag_toNat _ _)⟩,
    ⟨_, exec_sub s x y, s.onlyRegAndFlag_setVFlag x (byte_sub_toNat _ _) (noBorrowFlag_toNat _ _)⟩,
    ⟨_, exec_subn s x y, s.onlyRegAndFlag_setVFlag x (byte_sub_toNat _ _) (noBorrowFlag_toNat _ _)⟩⟩

/-- Settles O16: b is `shiftSource`, and each answers `setVFlag` with b shifted and the bit shifted out. -/
theorem shiftsWriteTheFlagLast : Obligations.ShiftsWriteTheFlagLast := by
  unfold Obligations.ShiftsWriteTheFlagLast
  intro s x y b hb
  obtain rfl : b = s.shiftSource x y := hb
  exact ⟨⟨_, exec_shr s x y, s.onlyRegAndFlag_setVFlag x (byte_shiftRight_one_toNat _) (shrFlag_toNat _)⟩,
    ⟨_, exec_shl s x y, s.onlyRegAndFlag_setVFlag x (byte_shiftLeft_one_toNat _) (shlFlag_toNat _)⟩⟩

end Sys2Proof.Machine

/-! # The index register (43_index_memory.md R108 to R110) -/

namespace Sys2Proof.Machine

section
variable (s : State) (x : Reg)

@[simp] theorem exec_ldI (nnn : Addr) : exec (.ldI nnn) s = .next { s with I := addrOf nnn } := rfl
@[simp] theorem exec_addI : exec (.addI x) s = .next { s with I := s.I + (s.getV x).zeroExtend 16 } := rfl
@[simp] theorem exec_ldF : exec (.ldF x) s = .next { s with I := glyphAddr (s.getV x) } := rfl

end

/-- I plus a byte wraps modulo 2^16 (R109). -/
theorem add_zeroExtend_toNat (i : Word) (b : Byte) :
    (i + b.zeroExtend 16).toNat = (i.toNat + b.toNat) % 65536 := by
  have widened : (b.zeroExtend 16).toNat = b.toNat := BitVec.toNat_setWidth_of_le (by decide)
  rw [BitVec.toNat_add, widened]

/-- The glyph of 255 is at 0x54B, so the product of 16 bits does not wrap (R110). -/
theorem glyphAddr_toNat (b : Byte) : (glyphAddr b).toNat = 0x050 + b.toNat * 5 := by
  have no_wrap : 0x050 + b.toNat * 5 < 2 ^ 16 := by
    have := b.isLt
    omega
  rw [glyphAddr, Config.fontBase, BitVec.toNat_ofNat, Nat.mod_eq_of_lt no_wrap]

/-- Settles O23: each answers the state with its value in I, and memory is not part of the update. -/
theorem indexOperationsComplete : Obligations.IndexOperationsComplete := by
  unfold Obligations.IndexOperationsComplete
  intro s x nnn
  exact ⟨⟨_, exec_ldI s nnn, addrOf_toNat nnn, rfl, fun _ => rfl⟩,
    ⟨_, exec_addI s x, add_zeroExtend_toNat s.I (s.getV x), rfl, fun _ => rfl⟩,
    ⟨_, exec_ldF s x, glyphAddr_toNat (s.getV x), rfl, fun _ => rfl⟩⟩

end Sys2Proof.Machine

/-! # The keypad instructions (45_input.md R118 to R120) -/

namespace Sys2Proof.Machine

section
variable (s : State) (x : Reg)

@[simp] theorem exec_skp : exec (.skp x) s = .next s := rfl
@[simp] theorem exec_sknp : exec (.sknp x) s = .next s := rfl
@[simp] theorem exec_ldVxK : exec (.ldVxK x) s = .next s := rfl

end

/-- Settles O35: each of the three answers the state it was given, by its own equation. -/
theorem inputInstructionsAreNoOps : Obligations.InputInstructionsAreNoOps := by
  unfold Obligations.InputInstructionsAreNoOps
  intro s x
  exact ⟨exec_skp s x, exec_sknp s x, exec_ldVxK s x⟩

end Sys2Proof.Machine

/-! # Encoding: decode and encode agree (30_encoding.md R63 to R74) -/

namespace Sys2Proof

/-! ## A word from its fields and the bits its row fixes -/

section
variable {w : Word} {op : Nibble}

theorem assembleNNN_of_op (hop : (fieldsOf w).op = op) : assembleNNN op (fieldsOf w).nnn = w :=
  hop ▸ assembleNNN_fieldsOf w

theorem assembleNN_of_op (hop : (fieldsOf w).op = op) : assembleNN op (fieldsOf w).x (fieldsOf w).nn = w :=
  hop ▸ assembleNN_fieldsOf w

theorem assemble_of_op (hop : (fieldsOf w).op = op) :
    assemble op (fieldsOf w).x (fieldsOf w).y (fieldsOf w).n = w :=
  hop ▸ assemble_fieldsOf w

theorem assemble_of_op_n {n : Nibble} (hop : (fieldsOf w).op = op) (hn : (fieldsOf w).n = n) :
    assemble op (fieldsOf w).x (fieldsOf w).y n = w :=
  hn ▸ assemble_of_op hop

theorem assembleNN_of_op_nn {nn : Byte} (hop : (fieldsOf w).op = op) (hnn : (fieldsOf w).nn = nn) :
    assembleNN op (fieldsOf w).x nn = w :=
  hnn ▸ assembleNN_of_op hop

end

/-! ## Decoding the word of an instruction -/

/-- The family RoundTrip of Laws/PerInstr.lean, put together. -/
theorem decode_encode (i : Instr) : Laws.RoundTrip.Statement i :=
  match i with
  | .cls x y => Laws.RoundTrip.cls x y
  | .ret x y => Laws.RoundTrip.ret x y
  | .jp nnn => Laws.RoundTrip.jp nnn
  | .call nnn => Laws.RoundTrip.call nnn
  | .seImm x nn => Laws.RoundTrip.seImm x nn
  | .sneImm x nn => Laws.RoundTrip.sneImm x nn
  | .seReg x y n => Laws.RoundTrip.seReg x y n
  | .ldImm x nn => Laws.RoundTrip.ldImm x nn
  | .addImm x nn => Laws.RoundTrip.addImm x nn
  | .ldReg x y => Laws.RoundTrip.ldReg x y
  | .or x y => Laws.RoundTrip.or x y
  | .and x y => Laws.RoundTrip.and x y
  | .xor x y => Laws.RoundTrip.xor x y
  | .addReg x y => Laws.RoundTrip.addReg x y
  | .sub x y => Laws.RoundTrip.sub x y
  | .shr x y => Laws.RoundTrip.shr x y
  | .subn x y => Laws.RoundTrip.subn x y
  | .shl x y => Laws.RoundTrip.shl x y
  | .sneReg x y n => Laws.RoundTrip.sneReg x y n
  | .ldI nnn => Laws.RoundTrip.ldI nnn
  | .jpV0 nnn => Laws.RoundTrip.jpV0 nnn
  | .rnd x nn => Laws.RoundTrip.rnd x nn
  | .drw x y n => Laws.RoundTrip.drw x y n
  | .skp x => Laws.RoundTrip.skp x
  | .sknp x => Laws.RoundTrip.sknp x
  | .ldVxDt x => Laws.RoundTrip.ldVxDt x
  | .ldVxK x => Laws.RoundTrip.ldVxK x
  | .ldDtVx x => Laws.RoundTrip.ldDtVx x
  | .ldStVx x => Laws.RoundTrip.ldStVx x
  | .addI x => Laws.RoundTrip.addI x
  | .ldF x => Laws.RoundTrip.ldF x
  | .ldB x => Laws.RoundTrip.ldB x
  | .ldMemRegs x => Laws.RoundTrip.ldMemRegs x
  | .ldRegsMem x => Laws.RoundTrip.ldRegsMem x
  | .unknown0 nnn => Laws.RoundTrip.unknown0 nnn
  | .unknown8 x y n => Laws.RoundTrip.unknown8 x y n
  | .unknownE x nn => Laws.RoundTrip.unknownE x nn
  | .unknownF x nn => Laws.RoundTrip.unknownF x nn

/-! ## Every word is the word of the instruction it decodes to -/

/-- `i` is well-formed under the match `g`, and `w` is its word. -/
def IsWordOf (g : Group0Decode) (w : Word) (i : Instr) : Prop := WellFormed g i = true ∧ encode i = w

section
variable {g : Group0Decode} {w : Word}

theorem IsWordOf.decode_eq {i : Instr} (h : IsWordOf g w i) : decode g w = i :=
  decode_eq_of_encode (decode_encode i) h.1 h.2

theorem unknown0_isWordOf (hop : (fieldsOf w).op = 0x0) (hk : group0Known g (fieldsOf w).nnn = false) :
    IsWordOf g w (.unknown0 (fieldsOf w).nnn) :=
  ⟨by rw [WellFormed, hk]; rfl, assembleNNN_of_op hop⟩

theorem dispatch0_isWordOf (hop : (fieldsOf w).op = 0x0) : IsWordOf g w (dispatch0 g (fieldsOf w)) := by
  unfold dispatch0
  cases g with
  | exact =>
    have whole {a : Addr} (h : (fieldsOf w).nnn = a) : assembleNNN 0x0 a = w := h ▸ assembleNNN_of_op hop
    dsimp only
    split
    · next h => obtain rfl := whole h; exact ⟨rfl, rfl⟩
    split
    · next h => obtain rfl := whole h; exact ⟨rfl, rfl⟩
    · next hcls hret => exact unknown0_isWordOf hop (by simpa [group0Known] using And.intro hcls hret)
  | nibble =>
    dsimp only
    split
    · next h => exact ⟨rfl, assemble_of_op_n hop h⟩
    split
    · next h => exact ⟨rfl, assemble_of_op_n hop h⟩
    · next hcls hret => exact unknown0_isWordOf hop (group0Known_nibble_of_ne hcls hret)

/-- The words of group 8 that select no operation, by the value of N (R69). -/
theorem group8Known_eq_false {n : Nibble} : group8Known n = false ↔ ¬ n.toNat ≤ 7 ∧ n.toNat ≠ 0xE := by
  simp [group8Known, ← BitVec.toNat_inj]

theorem dispatch8_isWordOf (hop : (fieldsOf w).op = 0x8) : IsWordOf g w (dispatch8 (fieldsOf w)) := by
  unfold dispatch8
  split
  case h_10 =>
    have unknown : group8Known (fieldsOf w).n = false := by grind [group8Known_eq_false]
    exact ⟨by rw [WellFormed, unknown]; rfl, assemble_of_op hop⟩
  all_goals
    next h => exact ⟨rfl, assemble_of_op_n hop (BitVec.eq_of_toNat_eq h)⟩

theorem dispatchE_isWordOf (hop : (fieldsOf w).op = 0xE) : IsWordOf g w (dispatchE (fieldsOf w)) := by
  unfold dispatchE
  split
  case h_3 =>
    have unknown : groupEKnown (fieldsOf w).nn = false := by simp_all [groupEKnown, ← BitVec.toNat_inj]
    exact ⟨by rw [WellFormed, unknown]; rfl, assembleNN_of_op hop⟩
  all_goals
    next h => exact ⟨rfl, assembleNN_of_op_nn hop (BitVec.eq_of_toNat_eq h)⟩

theorem dispatchF_isWordOf (hop : (fieldsOf w).op = 0xF) : IsWordOf g w (dispatchF (fieldsOf w)) := by
  unfold dispatchF
  split
  case h_10 =>
    have unknown : groupFKnown (fieldsOf w).nn = false := by simp_all [groupFKnown, ← BitVec.toNat_inj]
    exact ⟨by rw [WellFormed, unknown]; rfl, assembleNN_of_op hop⟩
  all_goals
    next h => exact ⟨rfl, assembleNN_of_op_nn hop (BitVec.eq_of_toNat_eq h)⟩

theorem decode_isWordOf (g : Group0Decode) (w : Word) : IsWordOf g w (decode g w) := by
  have op_eq {m : Nibble} (h : (fieldsOf w).op.toNat = m.toNat) : (fieldsOf w).op = m := BitVec.eq_of_toNat_eq h
  unfold decode dispatch
  split
  case h_1 h => exact dispatch0_isWordOf (op_eq h)
  case h_9 h => exact dispatch8_isWordOf (op_eq h)
  case h_15 h => exact dispatchE_isWordOf (op_eq h)
  case h_16 =>
    have last_group : (fieldsOf w).op.toNat = 0xF := by have := (fieldsOf w).op.isLt; grind
    exact dispatchF_isWordOf (op_eq last_group)
  case h_2 h | h_3 h | h_11 h | h_12 h => exact ⟨rfl, assembleNNN_of_op (op_eq h)⟩
  case h_6 h | h_10 h | h_14 h => exact ⟨rfl, assemble_of_op (op_eq h)⟩
  case h_4 h | h_5 h | h_7 h | h_8 h | h_13 h => exact ⟨rfl, assembleNN_of_op (op_eq h)⟩

end

/-- Settles O3: the round trip of every instruction, and every word is the word of what it decodes to. -/
theorem decodeAndEncodeAgree : Obligations.DecodeAndEncodeAgree := by
  unfold Obligations.DecodeAndEncodeAgree
  exact ⟨fun g i h => decode_encode i g h, decode_isWordOf⟩

/-! ## The rows of the opcode map (R72) -/

/-- A field that a mask keeps whole is that field of the masked word. -/
theorem extractLsb'_of_mask {w m p : Word} {start len : Nat} (hm : m.extractLsb' start len = BitVec.allOnes len)
    (h : w &&& m = p) : w.extractLsb' start len = p.extractLsb' start len := by
  rw [← h, BitVec.extractLsb'_and, hm, BitVec.and_allOnes]

/-- The mask 0xF00F keeps op and N. -/
theorem assemble_of_mask {w : Word} {op n : Nibble} (h : w &&& 0xF00F = assemble op 0 0 n) :
    assemble op (fieldsOf w).x (fieldsOf w).y n = w :=
  have fields := fieldsOf_assemble op 0 0 n
  assemble_of_op_n ((extractLsb'_of_mask rfl h).trans (congrArg Fields.op fields))
    ((extractLsb'_of_mask rfl h).trans (congrArg Fields.n fields))

/-- The mask 0xF0FF keeps op and NN. -/
theorem assembleNN_of_mask {w : Word} {op : Nibble} {nn : Byte} (h : w &&& 0xF0FF = assembleNN op 0 nn) :
    assembleNN op (fieldsOf w).x nn = w :=
  have fields := fieldsOf_assembleNN op 0 nn
  assembleNN_of_op_nn ((extractLsb'_of_mask rfl h).trans (congrArg Fields.op fields))
    ((extractLsb'_of_mask rfl h).trans (congrArg Fields.nn fields))

/-- Settles O4: the bits a row's mask keeps are those its instruction fixes, so the word is the instruction's. -/
theorem decodeFollowsTheOpcodeMap : Obligations.DecodeFollowsTheOpcodeMap := by
  unfold Obligations.DecodeFollowsTheOpcodeMap
  intro g w
  have row {g : Group0Decode} {i : Instr} (hwf : WellFormed g i = true) (hw : encode i = w) : decode g w = i :=
    IsWordOf.decode_eq ⟨hwf, hw⟩
  exact ⟨fun h => row rfl h.symm, fun h => row rfl h.symm, fun h => row rfl (assemble_of_mask h),
    fun h => row rfl (assemble_of_mask h), fun h => row rfl (assembleNNN_of_op (fieldsOf_op_of_mask h)),
    fun h => row rfl (assembleNNN_of_op (fieldsOf_op_of_mask h)),
    fun h => row rfl (assembleNN_of_op (fieldsOf_op_of_mask h)),
    fun h => row rfl (assembleNN_of_op (fieldsOf_op_of_mask h)),
    fun h => row rfl (assemble_of_op (fieldsOf_op_of_mask h)),
    fun h => row rfl (assembleNN_of_op (fieldsOf_op_of_mask h)),
    fun h => row rfl (assembleNN_of_op (fieldsOf_op_of_mask h)), fun h => row rfl (assemble_of_mask h),
    fun h => row rfl (assemble_of_mask h), fun h => row rfl (assemble_of_mask h),
    fun h => row rfl (assemble_of_mask h), fun h => row rfl (assemble_of_mask h),
    fun h => row rfl (assemble_of_mask h), fun h => row rfl (assemble_of_mask h),
    fun h => row rfl (assemble_of_mask h), fun h => row rfl (assemble_of_mask h),
    fun h => row rfl (assemble_of_op (fieldsOf_op_of_mask h)),
    fun h => row rfl (assembleNNN_of_op (fieldsOf_op_of_mask h)),
    fun h => row rfl (assembleNNN_of_op (fieldsOf_op_of_mask h)),
    fun h => row rfl (assembleNN_of_op (fieldsOf_op_of_mask h)),
    fun h => row rfl (assemble_of_op (fieldsOf_op_of_mask h)), fun h => row rfl (assembleNN_of_mask h),
    fun h => row rfl (assembleNN_of_mask h), fun h => row rfl (assembleNN_of_mask h),
    fun h => row rfl (assembleNN_of_mask h), fun h => row rfl (assembleNN_of_mask h),
    fun h => row rfl (assembleNN_of_mask h), fun h => row rfl (assembleNN_of_mask h),
    fun h => row rfl (assembleNN_of_mask h), fun h => row rfl (assembleNN_of_mask h),
    fun h => row rfl (assembleNN_of_mask h), fun h => row rfl (assembleNN_of_mask h)⟩

/-- Settles O1: each of the nine is the word of its instruction. -/
theorem writtenOutWordsDecode : Obligations.WrittenOutWordsDecode := by
  unfold Obligations.WrittenOutWordsDecode
  have read_back (i : Instr) (h : WellFormed .exact i = true) : decode .exact (encode i) = i := decode_encode i .exact h
  exact ⟨read_back (.cls 0 0xE) rfl, read_back (.ret 0 0xE) rfl, read_back (.jp 0x234) rfl,
    read_back (.ldImm 0 0x05) rfl, read_back (.addReg 0 1) rfl, read_back (.drw 1 2 3) rfl,
    read_back (.skp 3) rfl, read_back (.ldRegsMem 2) rfl, read_back (.ldDtVx 5) rfl⟩

end Sys2Proof

/-! # What an instruction can do: its equation, its frame and its faults (30_encoding.md R76, R77;
60_exceptions.md R122 to R127) -/

namespace Sys2Proof.Machine

/-- An outcome is the next state of one state only. -/
theorem next_unique {o : Host.Outcome State Fault Refusal} {a b : State} (ha : o = .next a) (hb : o = .next b) :
    a = b :=
  Host.Outcome.next.inj (ha.symm.trans hb)

/-! ## The equations of the remaining instructions -/

section
variable (s : State) (x y : Reg)

@[simp] theorem exec_rnd (nn : Byte) : exec (.rnd x nn) s = .next (s.drawn.setV x (s.rand8 &&& nn)) := rfl
@[simp] theorem exec_ldVxDt : exec (.ldVxDt x) s = .next (s.setV x s.dt) := rfl
@[simp] theorem exec_ldDtVx : exec (.ldDtVx x) s = .next { s with dt := s.getV x } := rfl
@[simp] theorem exec_ldStVx : exec (.ldStVx x) s = .next { s with st := s.getV x } := rfl

/-- The state after FX55 has stored V0 to Vx (R111). -/
def State.dumped : State := { s with mem := s.mem.storeBytes s.I.toNat (s.regsUpTo x), I := s.bulkIndex x }

/-- The state after FX65 has loaded V0 to Vx (R112). -/
def State.reloaded : State := { s with v := s.loadedRegs x, I := s.bulkIndex x }

/-- The state after FX33 has stored the digits of Vx (R113). -/
def State.digitsStored : State := { s with mem := s.mem.storeBytes s.I.toNat (bcdDigits (s.getV x)) }

/-- The state after DXYN has drawn its rows and written the flag (R80). -/
def State.spriteDrawn (n : Nibble) : State :=
  let out := drawRows s (s.spriteCol x) (s.spriteRow y) n.toNat
  { s with fb := out.1 }.setV VF out.2

theorem exec_ldMemRegs : exec (.ldMemRegs x) s = .next (s.guardRange (x.val + 1) (s.dumped x)) := rfl
theorem exec_ldRegsMem : exec (.ldRegsMem x) s = .next (s.guardRange (x.val + 1) (s.reloaded x)) := rfl
theorem exec_ldB : exec (.ldB x) s = .next (s.guardRange 3 (s.digitsStored x)) := rfl
theorem exec_drw (n : Nibble) :
    exec (.drw x y n) s = .next (s.guardRange n.toNat (s.spriteDrawn x y n)) := rfl

end

@[simp] theorem State.guardRange_zero (s t : State) : s.guardRange 0 t = t := s.guardRange_inRange t (.inl rfl)

/-! ## The frame: what an instruction that does not fault may change -/

/-- `t` is `s` but for what `i` may write, by the lists of writers of R16, R19, R21, R23, R25, R26, R29, R36
and R52, and the status record and the phase are as in `s`. -/
structure ChangesOnly (i : Instr) (s t : State) : Prop where
  regs    : ∀ r, mayWriteReg i r = false → t.getV r = s.getV r
  index   : mayWriteI i = false → t.I = s.I
  pc      : mayWritePc i = false → t.pc = s.pc
  stack   : reachesStack i = false → t.stack = s.stack ∧ t.sp = s.sp
  display : writesDisplay i = false → t.fb = s.fb
  memory  : storesMemory i = false → t.mem = s.mem
  delay   : (∀ x, i ≠ .ldDtVx x) → t.dt = s.dt
  sound   : (∀ x, i ≠ .ldStVx x) → t.st = s.st
  random  : (∀ x nn, i ≠ .rnd x nn) → t.rngDraws = s.rngDraws
  latches : t.cfg = s.cfg
  status  : t.runState = s.runState ∧ t.faultCause = s.faultCause ∧ t.faultPc = s.faultPc ∧ t.phase = s.phase

namespace ChangesOnly
variable {i : Instr} {s t u : State}

theorem refl (i : Instr) (s : State) : ChangesOnly i s s :=
  ⟨fun _ _ => rfl, fun _ => rfl, fun _ => rfl, fun _ => ⟨rfl, rfl⟩, fun _ => rfl, fun _ => rfl, fun _ => rfl,
    fun _ => rfl, fun _ => rfl, rfl, rfl, rfl, rfl, rfl⟩

/-- A register that `i` may write. -/
theorem setV {x : Reg} (hx : mayWriteReg i x = true) (b : Byte) : ChangesOnly i s (s.setV x b) where
  __ := refl i s
  regs r hr := s.getV_setV_ne b fun e => by simp [e, hx] at hr

/-- A result and then a flag. -/
theorem setVFlag {x : Reg} (hx : mayWriteReg i x = true) (hF : mayWriteReg i VF = true) (b f : Byte) :
    ChangesOnly i s (s.setVFlag x b f) where
  __ := refl i s
  regs r hr := by
    have hr_x : r ≠ x := fun e => by simp [e, hx] at hr
    have hr_F : r ≠ VF := fun e => by simp [e, hF] at hr
    rw [s.getV_setVFlag, if_neg hr_F, if_neg hr_x]

theorem setI (h : mayWriteI i = true) (a : Word) : ChangesOnly i s { s with I := a } where
  __ := refl i s
  index h' := by simp [h] at h'

theorem setPc (h : mayWritePc i = true) (a : Word) : ChangesOnly i s { s with pc := a } where
  __ := refl i s
  pc h' := by simp [h] at h'

/-- A register file whose written registers `i` may write, and I. -/
theorem loaded (hI : mayWriteI i = true) (a : Word) {v : Vector Byte 16}
    (hv : ∀ r, mayWriteReg i r = false → v.get r = s.getV r) : ChangesOnly i s { s with v := v, I := a } where
  __ := setI hI a
  regs := hv

end ChangesOnly

/-- An instruction that does not reach the return stack has its effect, after the range check on the bytes it
reaches through I. -/
theorem exec_eq_guardRange (i : Instr) (s : State) (hi : reachesStack i = false) :
    ∃ u, exec i s = .next (s.guardRange (bytesThroughI i) u) ∧ ChangesOnly i s u := by
  have unguarded {u : State} (hx : exec i s = .next u) (h0 : bytesThroughI i = 0) (hc : ChangesOnly i s u) :
      ∃ u, exec i s = .next (s.guardRange (bytesThroughI i) u) ∧ ChangesOnly i s u :=
    ⟨u, by rw [hx, h0, State.guardRange_zero], hc⟩
  cases i with
  | call | ret => cases hi
  | cls x y => exact unguarded rfl rfl { ChangesOnly.refl _ s with display := nofun }
  | jp | jpV0 | seImm | sneImm | seReg | sneReg => exact unguarded rfl rfl (.setPc rfl _)
  | ldImm | addImm | ldReg | or | and | xor | ldVxDt => exact unguarded rfl rfl (.setV (beq_self_eq_true _) _)
  | addReg | sub | subn | shr | shl =>
    exact unguarded rfl rfl (.setVFlag (by simp [mayWriteReg]) (by simp [mayWriteReg]) _ _)
  | ldI | addI | ldF => exact unguarded rfl rfl (.setI rfl _)
  | rnd x nn =>
    exact unguarded rfl rfl { ChangesOnly.setV (i := .rnd x nn) (beq_self_eq_true x) (s.rand8 &&& nn) with
      random := fun h => (h x nn rfl).elim }
  | ldDtVx x => exact unguarded rfl rfl { ChangesOnly.refl _ s with delay := fun h => (h x rfl).elim }
  | ldStVx x => exact unguarded rfl rfl { ChangesOnly.refl _ s with sound := fun h => (h x rfl).elim }
  | skp | sknp | ldVxK | unknown0 | unknown8 | unknownE | unknownF => exact unguarded rfl rfl (.refl _ s)
  | drw x y n =>
    exact ⟨s.spriteDrawn x y n, rfl, { ChangesOnly.setV (i := .drw x y n) (x := VF) rfl _ with display := nofun }⟩
  | ldB x => exact ⟨s.digitsStored x, rfl, { ChangesOnly.refl _ s with memory := nofun }⟩
  | ldMemRegs x => exact ⟨s.dumped x, rfl, { ChangesOnly.refl _ s with memory := nofun, index := nofun }⟩
  | ldRegsMem x =>
    have kept (r : Reg) (hr : mayWriteReg (.ldRegsMem x) r = false) : (s.reloaded x).getV r = s.getV r :=
      (s.loadedRegs_get x r).trans (if_neg (of_decide_eq_false hr))
    exact ⟨s.reloaded x, rfl, .loaded rfl _ kept⟩

/-! ## Faults (R122, R125, R127) -/

theorem faultCondition_of_not_stack {i : Instr} (s : State) (hi : reachesStack i = false) :
    faultCondition i s =
      if bytesThroughI i ≠ 0 ∧ 0xFFF < s.I.toNat + (bytesThroughI i - 1) then some .memoryOutOfRange else none := by
  cases i with
  | call | ret => cases hi
  | _ => rfl

/-- Without a fault condition, what an instruction reaches through I is in range. -/
theorem inRange_of_faultCondition {i : Instr} {s : State} (hi : reachesStack i = false)
    (h : faultCondition i s = none) : bytesThroughI i = 0 ∨ s.I.toNat + bytesThroughI i - 1 ≤ 0xFFF := by
  rw [faultCondition_of_not_stack s hi] at h
  split at h
  · cases h
  · omega

/-- What an instruction can do: it takes the fault entry with the condition it meets, or it meets none and
changes only what it may. -/
theorem exec_cases {i : Instr} {s t : State} (h : exec i s = .next t) :
    (∃ k, faultCondition i s = some k ∧ t = s.faultEntry k) ∨
    (faultCondition i s = none ∧ ChangesOnly i s t) := by
  cases hi : reachesStack i
  case false =>
    obtain ⟨u, hx, hc⟩ := exec_eq_guardRange i s hi
    obtain rfl : s.guardRange (bytesThroughI i) u = t := next_unique hx h
    rw [faultCondition_of_not_stack s hi]
    rcases s.guardRange_cases u (bytesThroughI i) with ⟨inRange, heq⟩ | ⟨outOfRange, heq⟩ <;> rw [heq]
    · exact .inr ⟨if_neg (by omega), hc⟩
    · exact .inl ⟨_, if_pos (by omega), rfl⟩
  case true =>
    have signalled {k : FaultKind} (hx : exec i s = .next (s.signal k))
        (hk : faultCondition i s = if s.cfg.stackErrorPolicy = .halt then some k else none) :
        (∃ k, faultCondition i s = some k ∧ t = s.faultEntry k) ∨
        (faultCondition i s = none ∧ ChangesOnly i s t) := by
      obtain rfl : s.signal k = t := next_unique hx h
      rcases s.signal_cases k with ⟨hp, heq⟩ | ⟨hp, heq⟩ <;> rw [heq, hk, hp]
      · exact .inl ⟨k, rfl, rfl⟩
      · exact .inr ⟨rfl, .refl i s⟩
    cases i with
    | call nnn =>
      rcases Nat.lt_or_ge s.sp 16 with room | full
      · obtain rfl := next_unique (exec_call_of_room nnn room) h
        exact .inr ⟨if_neg (by omega), { ChangesOnly.refl _ s with pc := nofun, stack := nofun }⟩
      · exact signalled (exec_call_of_full nnn full) (by simp [faultCondition, full])
    | ret x y =>
      rcases Nat.eq_zero_or_pos s.sp with empty | entry
      · exact signalled (exec_ret_of_empty x y empty) (by simp [faultCondition, empty])
      · obtain rfl := next_unique (exec_ret_of_entry x y entry) h
        exact .inr ⟨if_neg (by omega), { ChangesOnly.refl _ s with pc := nofun, stack := nofun }⟩
    | _ => cases hi

/-- An instruction that meets a fault condition takes the fault entry. -/
theorem exec_of_faultCondition {i : Instr} {s : State} {k : FaultKind} (hk : faultCondition i s = some k) :
    exec i s = .next (s.faultEntry k) := by
  obtain ⟨t, ht⟩ := exec_next i s
  rcases exec_cases ht with ⟨k', hk', rfl⟩ | ⟨hnone, _⟩
  · rw [hk] at hk'
    rw [ht, Option.some.inj hk']
  · simp [hk] at hnone

theorem faultEntry_eq_Faulted (s : State) (k : FaultKind) : s.faultEntry k = Faulted s (faultCode k) := rfl

/-- Settles O9: the two outcomes of an instruction, each condition with its code. -/
theorem onlyTheListedConditionsFault : Obligations.OnlyTheListedConditionsFault := by
  unfold Obligations.OnlyTheListedConditionsFault
  intro i s
  obtain ⟨t, ht⟩ := exec_next i s
  have fault_entry {k : FaultKind} (hk : faultCondition i s = some k) : t = Faulted s (faultCode k) :=
    next_unique ht (exec_of_faultCondition hk)
  refine ⟨t, ht, fault_entry, fault_entry, fault_entry, fun hnone => ?_⟩
  rcases exec_cases ht with ⟨k, hk, _⟩ | ⟨_, hc⟩
  · simp [hk] at hnone
  · exact hc.status

/-- Settles O8: the fault entry stops the scheduler's loop, so the end of the execute phase leaves it as it is. -/
theorem faultingStepIsPrecise : Obligations.FaultingStepIsPrecise := by
  unfold Obligations.FaultingStepIsPrecise
  intro s k hs hk
  have fault_entry : exec (decode s.cfg.group0Decode s.fetchWord) s.advance = .next (s.advance.faultEntry k) :=
    exec_of_faultCondition hk
  rw [step_of_exec hs fault_entry]
  cases k <;> simp [State.endExecute, State.faultEntry, State.insnAddr, State.advance, faultCode]

/-- Settles O28: past 0xFFF the condition is MemoryOutOfRange; 0 bytes meet none. -/
theorem outOfRangeAccessHasNoEffect : Obligations.OutOfRangeAccessHasNoEffect := by
  unfold Obligations.OutOfRangeAccessHasNoEffect
  refine ⟨fun i s h0 hr => ?_, fun s x y => ?_⟩
  · have hi : reachesStack i = false := by
      cases i with
      | call | ret => exact absurd rfl h0
      | _ => rfl
    have out_of_range : faultCondition i s = some .memoryOutOfRange := by
      rw [faultCondition_of_not_stack s hi, if_pos (by omega)]
    exact exec_of_faultCondition out_of_range
  · exact ⟨_, rfl, rfl, rfl⟩

/-! ## The frame of every instruction -/

/-- `s` with the fields of `o` that no handler reads or writes: the deadlines, the LOAD mark, the FRAME records,
the host's transactions and the clock (R77). -/
def State.withHostOf (s o : State) : State :=
  { s with
    t0 := o.t0, dInsn := o.dInsn, dTick := o.dTick, loaded := o.loaded, frames := o.frames,
    hostIn := o.hostIn, now := o.now, clockSamples := o.clockSamples }

theorem State.guardRange_withHostOf (s t o : State) (n : Nat) :
    (s.withHostOf o).guardRange n (t.withHostOf o) = (s.guardRange n t).withHostOf o :=
  (apply_ite (State.withHostOf · o) (checkRange s.I.toNat n = true) t (s.faultEntry .memoryOutOfRange)).symm

theorem State.signal_eq_ite (s : State) (k : FaultKind) :
    s.signal k = if s.cfg.stackErrorPolicy = .halt then s.faultEntry k else s := by
  rcases s.signal_cases k with ⟨hp, heq⟩ | ⟨hp, heq⟩ <;> rw [heq, hp] <;> rfl

theorem State.signal_withHostOf (s o : State) (k : FaultKind) :
    (s.withHostOf o).signal k = (s.signal k).withHostOf o := by
  rw [State.signal_eq_ite, State.signal_eq_ite]
  exact (apply_ite (State.withHostOf · o) (s.cfg.stackErrorPolicy = .halt) (s.faultEntry k) s).symm

/-- Every handler commutes with a change of those fields. -/
theorem exec_withHostOf (i : Instr) (s o : State) :
    ∃ t, exec i s = .next t ∧ exec i (s.withHostOf o) = .next (t.withHostOf o) := by
  cases i with
  | call nnn =>
    rcases Nat.lt_or_ge s.sp 16 with room | full
    · exact ⟨_, exec_call_of_room nnn room, exec_call_of_room nnn room⟩
    · exact ⟨_, exec_call_of_full nnn full,
        (exec_call_of_full (s := s.withHostOf o) nnn full).trans (congrArg _ (s.signal_withHostOf o _))⟩
  | ret x y =>
    rcases Nat.eq_zero_or_pos s.sp with empty | entry
    · exact ⟨_, exec_ret_of_empty x y empty,
        (exec_ret_of_empty (s := s.withHostOf o) x y empty).trans (congrArg _ (s.signal_withHostOf o _))⟩
    · exact ⟨_, exec_ret_of_entry x y entry, exec_ret_of_entry x y entry⟩
  | drw x y n => exact ⟨_, rfl, congrArg _ (s.guardRange_withHostOf (s.spriteDrawn x y n) o _)⟩
  | ldB x => exact ⟨_, rfl, congrArg _ (s.guardRange_withHostOf (s.digitsStored x) o _)⟩
  | ldMemRegs x => exact ⟨_, rfl, congrArg _ (s.guardRange_withHostOf (s.dumped x) o _)⟩
  | ldRegsMem x => exact ⟨_, rfl, congrArg _ (s.guardRange_withHostOf (s.reloaded x) o _)⟩
  | _ => exact ⟨_, rfl, rfl⟩

/-- Settles O12: every handler commutes with that change. -/
theorem handlersIgnoreClockAndHost : Obligations.HandlersIgnoreClockAndHost := by
  unfold Obligations.HandlersIgnoreClockAndHost
  intro i s t0 dInsn dTick now clockSamples frames hostIn loaded
  exact exec_withHostOf i s { s with
    t0 := t0, dInsn := dInsn, dTick := dTick, now := now, clockSamples := clockSamples,
    frames := frames, hostIn := hostIn, loaded := loaded }

/-- A handler writes none of those fields: changing them to what they were changes nothing. -/
theorem exec_host_frame {i : Instr} {s t : State} (h : exec i s = .next t) : t = t.withHostOf s := by
  obtain ⟨u, hu, hu'⟩ := exec_withHostOf i s s
  obtain rfl : u = t := next_unique hu h
  exact next_unique h hu'

/-- Settles O11: the fault entry writes the status record and the phase alone, and an instruction that meets no
condition changes only what it may. -/
theorem instructionsChangeOnlyWhatTheyMay : Obligations.InstructionsChangeOnlyWhatTheyMay := by
  unfold Obligations.InstructionsChangeOnlyWhatTheyMay
  intro i s
  obtain ⟨t, ht⟩ := exec_next i s
  have host := exec_host_frame ht
  refine ⟨t, ht, ?_⟩
  rcases exec_cases ht with ⟨k, -, rfl⟩ | ⟨-, hc⟩
  · exact ⟨fun _ _ => rfl, fun _ => rfl, fun _ => rfl, fun _ => ⟨rfl, rfl⟩, fun _ => rfl, fun _ _ => rfl,
      fun _ => rfl, fun _ => rfl, fun _ => rfl, rfl, rfl, rfl, rfl, rfl, rfl, rfl, rfl, rfl⟩
  · refine ⟨hc.regs, hc.index, hc.pc, hc.stack, hc.display, fun hm a => ?_, hc.delay, hc.sound, hc.random,
      hc.latches, ?_⟩
    · rw [State.readMem, hc.memory hm, State.readMem]
    · rw [host]
      exact ⟨rfl, rfl, rfl, rfl, rfl, rfl, rfl, rfl⟩

end Sys2Proof.Machine

/-! # One instruction step, and the instructions of the stack, the timers and the random source
(30_encoding.md R75; 41_control_flow.md R88, R89; 42_alu.md R107; 44_timers.md R115 to R117;
60_exceptions.md R123, R124; 70_reset_and_hazards.md R141) -/

namespace Sys2Proof.Machine

/-! ## The loop check and the step (R75, R141) -/

/-- The end of the execute phase, by the phase alone. -/
theorem State.endExecute_eq (t : State) :
    t.endExecute = if t.phase = .stopped then t else { t with phase := .wait } := by
  split
  · next h => rw [State.endExecute, h]
  · next h => exact State.endExecute_of_ne_stopped h

/-- Settles O6: a step is `exec` of the decoded instruction after the fetch advance, and the end of the execute
phase. -/
theorem stepRunsTheDecodedInstruction : Obligations.StepRunsTheDecodedInstruction := by
  unfold Obligations.StepRunsTheDecodedInstruction
  intro s i hs hi
  obtain ⟨t, ht⟩ := exec_next i s.advance
  obtain rfl : decode s.cfg.group0Decode s.fetchWord = i := hi
  exact ⟨t, ht, (step_of_exec hs ht).trans (congrArg _ t.endExecute_eq)⟩

/-- Settles O7: the loop check comes before the fetch. -/
theorem loopCheckHaltsTheRun : Obligations.LoopCheckHaltsTheRun := by
  unfold Obligations.LoopCheckHaltsTheRun
  intro s hrun hphase hpc
  have check : s.pc.toNat ≥ Config.haltPc := hpc
  simp only [step, hrun, hphase, insnSlot, if_pos check, State.halt]

/-! ## CALL and RET (R88, R89, R123, R124) -/

theorem State.top_eq {s : State} (h0 : 0 < s.sp) (h : s.sp ≤ 16) : s.top = s.stack[s.sp - 1] := by
  rw [State.top, Vector.getElem?_eq_getElem (by omega), Option.getD_some]

/-- Settles O20: the entry a call stores is the one at the old depth, and a return reads the one below its own. -/
theorem callAndReturnComplete : Obligations.CallAndReturnComplete := by
  unfold Obligations.CallAndReturnComplete
  intro s nnn x y
  refine ⟨fun h => ⟨_, exec_call_of_room nnn h, addrOf_toNat nnn, rfl, ?_, fun k hk hne => ?_, rfl, fun _ => rfl⟩,
    fun h0 h => ⟨_, exec_ret_of_entry x y h0, rfl, s.top_eq h0 h, rfl, fun _ => rfl⟩⟩
  · exact Vector.getElem_setIfInBounds_self h
  · exact Vector.getElem_setIfInBounds_ne hk hne.symm

/-- Settles O21: at its limit each of the two signals, and the policy decides between the fault entry and nothing. -/
theorem stackSignalsFollowThePolicy : Obligations.StackSignalsFollowThePolicy := by
  unfold Obligations.StackSignalsFollowThePolicy
  intro s nnn x y
  have halted (k : FaultKind) (hp : s.cfg.stackErrorPolicy = .halt) : s.signal k = Faulted s (faultCode k) := by
    rw [State.signal_eq_ite, if_pos hp, faultEntry_eq_Faulted]
  have dropped (k : FaultKind) (hp : s.cfg.stackErrorPolicy = .cont) : s.signal k = s := by
    rw [State.signal_eq_ite, hp]; rfl
  exact ⟨fun full hp => (exec_call_of_full nnn full.ge).trans (congrArg _ (halted _ hp)),
    fun full hp => (exec_call_of_full nnn full.ge).trans (congrArg _ (dropped _ hp)),
    fun empty hp => (exec_ret_of_empty x y empty).trans (congrArg _ (halted _ hp)),
    fun empty hp => (exec_ret_of_empty x y empty).trans (congrArg _ (dropped _ hp))⟩

/-- Settles O22: the entry on top is the one the call stored. -/
theorem returnComesBackFromTheCall : Obligations.ReturnComesBackFromTheCall := by
  unfold Obligations.ReturnComesBackFromTheCall
  intro s t u nnn x y hsp ht hstack hdepth
  obtain rfl := next_unique (exec_call_of_room nnn hsp) ht
  have entry : u.sp = s.sp + 1 := hdepth
  refine ⟨_, exec_ret_of_entry x y (by omega), ?_, ?_⟩
  · show u.top = s.pc
    rw [State.top, hstack, entry]
    exact State.push_top s.pc hsp
  · show u.sp - 1 = s.sp
    rw [entry, Nat.add_sub_cancel]

/-! ## The random source and the timers (R107, R115 to R117) -/

/-- Settles O17: a byte masked by NN has no bit that NN clears, whatever the draw is. -/
theorem randomByteIsMasked : Obligations.RandomByteIsMasked := by
  unfold Obligations.RandomByteIsMasked
  intro s x nn
  have written : (s.drawn.setV x (s.rand8 &&& nn)).getV x = Config.randByte s.rngDraws &&& nn := State.getV_setV ..
  refine ⟨_, exec_rnd s x nn, written, ?_, fun r hr => State.getV_setV_ne _ _ hr, rfl, fun _ => rfl⟩
  rw [written, BitVec.and_assoc, BitVec.and_not_self]
  exact BitVec.and_zero

/-- Settles O34: each of the three is one update. -/
theorem timerInstructionsComplete : Obligations.TimerInstructionsComplete := by
  unfold Obligations.TimerInstructionsComplete
  intro s x
  exact ⟨⟨_, exec_ldVxDt s x, s.onlyReg_setV x _⟩, exec_ldDtVx s x, exec_ldStVx s x⟩

/-! ## The tick and the wait phase (R130, R142, R148) -/

/-- Settles O36: the timers count down with a floor of 0. -/
theorem tickCountsDown : Obligations.TickCountsDown := by
  unfold Obligations.TickCountsDown
  intro s
  exact ⟨rfl, countDown_toNat s.dt, countDown_toNat s.st, rfl, rfl⟩

/-- n ticks take n from the delay timer, down to 0. -/
theorem State.tick_iterate_dt (t : State) (n : Nat) : (State.tick^[n] t).dt.toNat = t.dt.toNat - n := by
  induction n with
  | zero => rfl
  | succ n ih => rw [Function.iterate_succ_apply', State.tick_dt, countDown_toNat, ih, Nat.sub_sub]

/-- Settles O37: FX07 reads the timer that FX15 wrote and the ticks counted down. -/
theorem delayTimerReadsAfterTicks : Obligations.DelayTimerReadsAfterTicks := by
  unfold Obligations.DelayTimerReadsAfterTicks
  intro s t x y n ht
  obtain rfl := next_unique (exec_ldDtVx s x) ht
  refine ⟨_, exec_ldVxDt _ y, ?_⟩
  rw [State.getV_setV, State.tick_iterate_dt]

/-- A step in the wait phase is one turn of it (R142). -/
theorem step_of_wait {s : State} (hrun : s.runState = .running) (hphase : s.phase = .wait) :
    step s = .next s.sample.poll := by
  simp only [step, hrun, hphase, waitTurn]

/-- Settles O38: after the sample, a turn is one of the three cases of `poll`, and the deadlines it compares are
those from before. -/
theorem waitTurnChecksTheInstructionDeadlineFirst : Obligations.WaitTurnChecksTheInstructionDeadlineFirst := by
  unfold Obligations.WaitTurnChecksTheInstructionDeadlineFirst
  intro s hrun hphase
  have later := s.now_le_sample
  refine ⟨_, step_of_wait hrun hphase, ?_⟩
  rcases s.sample.poll_cases with ⟨hd, heq⟩ | ⟨hd, ht, heq⟩ | ⟨hd, ht, heq⟩
  · rw [heq]
    exact ⟨later, rfl, fun _ => rfl, fun h => absurd hd (not_le.mpr h), fun h => absurd hd (not_le.mpr h)⟩
  · rw [heq]
    exact ⟨later, rfl, fun h => absurd h (not_le.mpr hd), fun _ _ => rfl, fun _ h => absurd ht (not_le.mpr h)⟩
  · rw [heq]
    exact ⟨later, rfl, fun h => absurd h (not_le.mpr hd), fun _ h => absurd h (not_le.mpr ht), fun _ _ => rfl⟩

/-- The FRAME records after an instruction slot are those before (R77, R141). -/
theorem insnSlot_frames {s u : State} (h : insnSlot s = .next u) : u.frames = s.frames := by
  rcases insnSlot_cases h with ⟨_, rfl⟩ | ⟨_, t, ht, rfl⟩
  · rfl
  · rw [State.endExecute_eq, exec_host_frame ht]
    split <;> rfl

/-- Settles O39: of what a step of a running block can do, only the second case of `poll` adds a record. -/
theorem ticksFallOnlyInTheWaitPhase : Obligations.TicksFallOnlyInTheWaitPhase := by
  unfold Obligations.TicksFallOnlyInTheWaitPhase
  intro s u hrun hstep hframes
  rcases step_cases hstep with ⟨_, _, hslot⟩ | ⟨_, hwait, rfl⟩ | ⟨hidle, _⟩ | ⟨hidle, _⟩
  · exact absurd (insnSlot_frames hslot) hframes
  · rcases s.sample.poll_cases with ⟨_, heq⟩ | ⟨hd, ht, heq⟩ | ⟨_, _, heq⟩ <;> rw [heq] at hframes ⊢
    · exact absurd rfl hframes
    · exact ⟨hwait, ht.trans_lt hd, rfl⟩
    · exact absurd rfl hframes
  · exact absurd hrun hidle
  · rw [hrun] at hidle
    cases hidle

end Sys2Proof.Machine

/-! # The host's transactions and the reset sequence (10_state.md R38 to R46; 60_exceptions.md R126;
70_reset_and_hazards.md R136 to R140) -/

namespace Sys2Proof.Machine

/-! ## Taking one transaction -/

section
variable {s : State} {r : HostRequest} {rest : List HostRequest}

/-- While no run is in progress a step is the host's turn. -/
theorem step_of_not_running (hrun : s.runState ≠ .running) : step s = hostTurn s := by
  unfold step
  split
  · contradiction
  all_goals rfl

/-- Then the oldest pending transaction is taken (log 9). -/
theorem step_of_request (hrun : s.runState ≠ .running) (hin : s.hostIn = r :: rest) :
    step s = takeRequest r { s with hostIn := rest } := by
  rw [step_of_not_running hrun, hostTurn, hin]

end

section
variable {s : State}

theorem takeRequest_config {l : Latches} (h : s.runState = .idle) :
    takeRequest (.config l) s = if l.ips = 0 then .refused .configIpsZero else .next { s with cfg := l } :=
  if_neg (not_not.mpr h)

theorem takeRequest_load {bytes : List Byte} (h : s.runState = .idle) :
    takeRequest (.load bytes) s = if s.loaded then .refused .secondLoad else
      .next { s with mem := s.mem.storeBytes Config.progBase (loadable bytes), loaded := true } :=
  if_neg (not_not.mpr h)

theorem takeRequest_start (h : s.runState = .idle) :
    takeRequest .start s = if s.cfg.ips = 0 then .refused .startIpsZero else .next s.sample.started :=
  if_neg (not_not.mpr h)

/-- A transaction other than a reset sequence is refused unless the block is IDLE (R38, R39, R40). -/
theorem takeRequest_of_not_idle {r : HostRequest} (h : s.runState ≠ .idle) (hr : ∀ font, r ≠ .reset font) :
    takeRequest r s = .refused .notIdle := by
  cases r with
  | reset font => exact absurd rfl (hr font)
  | _ => exact if_pos h

/-- What a transaction that is taken does (R38, R39, R40, R136). -/
theorem takeRequest_cases {r : HostRequest} {u : State} (h : takeRequest r s = .next u) :
    (∃ l, r = .config l ∧ s.runState = .idle ∧ l.ips ≠ 0 ∧ u = { s with cfg := l }) ∨
    (∃ bytes, r = .load bytes ∧ s.runState = .idle ∧ s.loaded = false ∧
      u = { s with mem := s.mem.storeBytes Config.progBase (loadable bytes), loaded := true }) ∨
    (r = .start ∧ s.runState = .idle ∧ s.cfg.ips ≠ 0 ∧ u = s.sample.started) ∨
    ∃ font, r = .reset font ∧ u = s.resetAgain font := by
  by_cases hidle : s.runState = .idle
  case neg =>
    cases r with
    | reset font => exact .inr (.inr (.inr ⟨font, rfl, (Host.Outcome.next.inj h).symm⟩))
    | _ =>
      rw [takeRequest_of_not_idle hidle (by simp)] at h
      cases h
  cases r with
  | config l =>
    rw [takeRequest_config hidle] at h
    split at h
    · cases h
    · exact .inl ⟨l, rfl, hidle, ‹_›, (Host.Outcome.next.inj h).symm⟩
  | load bytes =>
    rw [takeRequest_load hidle] at h
    split at h
    · cases h
    · exact .inr (.inl ⟨bytes, rfl, hidle, by simp_all, (Host.Outcome.next.inj h).symm⟩)
  | start =>
    rw [takeRequest_start hidle] at h
    split at h
    · cases h
    · exact .inr (.inr (.inl ⟨rfl, hidle, ‹_›, (Host.Outcome.next.inj h).symm⟩))
  | reset font => exact .inr (.inr (.inr ⟨font, rfl, (Host.Outcome.next.inj h).symm⟩))

end

/-! ## CONFIG, LOAD and START -/

/-- An IDLE block has no run in progress. -/
theorem ne_running_of_idle {s : State} (h : s.runState = .idle) : s.runState ≠ .running := by
  rw [h]; decide

/-- Settles O43: CONFIG and START are each one test of IPS. -/
theorem configWritesTheLatches : Obligations.ConfigWritesTheLatches := by
  unfold Obligations.ConfigWritesTheLatches
  intro s rest hidle
  have taken {r : HostRequest} (hin : s.hostIn = r :: rest) : step s = takeRequest r { s with hostIn := rest } :=
    step_of_request (ne_running_of_idle hidle) hin
  exact ⟨fun l hin hips => ((taken hin).trans (takeRequest_config hidle)).trans (if_neg (Nat.ne_of_gt hips)),
    fun l hin hips => ((taken hin).trans (takeRequest_config hidle)).trans (if_pos hips),
    fun hin hips => ((taken hin).trans (takeRequest_start hidle)).trans (if_pos hips)⟩

/-- Settles O41: START is a sample and then `started`, which reads the time just sampled. -/
theorem startSetsTheDeadlines : Obligations.StartSetsTheDeadlines := by
  unfold Obligations.StartSetsTheDeadlines
  intro s rest hidle hin hips
  have taken := (step_of_request (ne_running_of_idle hidle) hin).trans (takeRequest_start hidle)
  exact ⟨_, taken.trans (if_neg (Nat.ne_of_gt hips)), s.now_le_sample, rfl, rfl, rfl, rfl, rfl, rfl, rfl⟩

theorem loadable_length (bytes : List Byte) : (loadable bytes).length = min 3584 bytes.length := List.length_take

/-- The bytes that fit are the first 3584 (R138). -/
theorem loadable_getD {bytes : List Byte} {k : Nat} (hk : k < bytes.length) (hfit : k < 3584) :
    (loadable bytes).getD k 0 = bytes[k] := by
  have kept : k < Config.memSize - Config.progBase := hfit
  rw [loadable, List.getD_eq_getElem?_getD, List.getElem?_take_of_lt kept,
    List.getElem?_eq_getElem hk, Option.getD_some]

/-- Memory after LOAD: the byte that fits at its cell, and the old byte everywhere else. -/
theorem read_loaded {m : Memory} (hm : m.wf) (bytes : List Byte) (a : Nat) :
    (m.storeBytes Config.progBase (loadable bytes)).read a =
      if 0x200 ≤ a ∧ a < 0x200 + min 3584 bytes.length then (loadable bytes).getD (a - 0x200) 0 else m.read a := by
  have fits : Config.progBase + (loadable bytes).length ≤ 0x1000 := by
    rw [loadable_length, Config.progBase]; omega
  rw [Memory.read_storeBytes hm fits, loadable_length, Config.progBase]

/-- Settles O42: what LOAD stores are the first 3584 bytes, from 0x200. -/
theorem loadStoresTheProgram : Obligations.LoadStoresTheProgram := by
  unfold Obligations.LoadStoresTheProgram
  intro s bs rest hidle hin hm
  have taken := (step_of_request (ne_running_of_idle hidle) hin).trans (takeRequest_load hidle)
  refine ⟨fun hl => ⟨_, taken.trans (if_neg (by simp [hl])), fun k hk hfit => ?_, fun a ha => ?_, rfl⟩,
    fun hl => taken.trans (if_pos hl)⟩
  · refine (read_loaded hm bs (0x200 + k)).trans ?_
    rw [if_pos (by omega), Nat.add_sub_cancel_left]
    exact loadable_getD hk (by omega)
  · refine (read_loaded hm bs a).trans (if_neg ?_)
    omega

/-! ## The reset sequence (R136, R46) -/

/-- What the reset sequence leaves in memory: FONT at its place, and the reset contents of the default elsewhere. -/
theorem resetWith_readMem (font : Vector Byte 80) (a : Nat) :
    (State.resetWith font).readMem a =
      if 0x050 ≤ a ∧ a < 0x050 + 80 then font.toList.getD (a - 0x050) 0 else Memory.unlisted a := by
  have empty_wf : Memory.wf [] := ⟨List.Pairwise.nil, nofun⟩
  have fits : Config.fontBase + font.toList.length ≤ 0x1000 := by rw [font.length_toList]; decide
  have stored := Memory.read_storeBytes empty_wf fits a
  rwa [font.length_toList] at stored

theorem resetWith_readMem_font (font : Vector Byte 80) {k : Nat} (h : k < 80) :
    (State.resetWith font).readMem (0x050 + k) = font[k] := by
  rw [resetWith_readMem, if_pos (by omega), Nat.add_sub_cancel_left, List.getD_eq_getElem?_getD,
    Vector.getElem?_toList, Vector.getElem?_eq_getElem h, Option.getD_some]

theorem resetWith_readMem_zero (font : Vector Byte 80) {a : Nat} (ha : a < 0x050 ∨ 0x09F < a) :
    (State.resetWith font).readMem a = 0 := by
  have outside : ¬ (Config.fontBase ≤ a ∧ a ≤ Config.fontEnd) := by
    rw [Config.fontBase, Config.fontEnd]; omega
  rw [resetWith_readMem, if_neg (by omega), Memory.unlisted, if_neg outside]

/-- With the default FONT every byte stored is what its cell reads as already, so nothing is listed. -/
theorem resetWith_defaultFont : State.resetWith Config.defaultFont = State.reset := by
  have default_unlisted : Memory.storeBytes [] Config.fontBase Config.defaultFont.toList = [] := by decide
  rw [State.resetWith, default_unlisted]
  rfl

/-- Settles O44: FONT is stored over memory that reads as zero outside the font table. -/
theorem resetSequenceLoadsTheFont : Obligations.ResetSequenceLoadsTheFont := by
  unfold Obligations.ResetSequenceLoadsTheFont
  exact ⟨fun font => ⟨fun _ hk => resetWith_readMem_font font hk, fun _ ha => resetWith_readMem_zero font ha⟩,
    resetWith_defaultFont⟩

theorem reset_v (r : Reg) : State.reset.getV r = 0 := Vector.getElem_replicate r.isLt
theorem reset_stack (k : Fin 16) : State.reset.stack.get k = 0 := Vector.getElem_replicate k.isLt
theorem reset_fb (k : Fin 32) : State.reset.fb.get k = 0 := Vector.getElem_replicate k.isLt

/-- Settles O45: the values are those of `State.reset`, whose three vectors hold zeros. -/
theorem resetValuesAreTheSpecs : Obligations.ResetValuesAreTheSpecs := by
  unfold Obligations.ResetValuesAreTheSpecs
  exact ⟨reset_v, rfl, rfl, rfl, reset_stack, rfl, rfl, reset_fb, rfl, rfl, rfl, rfl, rfl, rfl, rfl⟩

/-- Settles O48: the transaction answers `resetWith` of its FONT but for the host's side. -/
theorem resetTransactionResetsTheMachine : Obligations.ResetTransactionResetsTheMachine := by
  unfold Obligations.ResetTransactionResetsTheMachine
  intro s font rest hrun hin
  exact ⟨State.resetAgain { s with hostIn := rest } font, step_of_request hrun hin, rfl, reset_v, rfl, rfl, rfl,
    reset_stack, rfl, rfl, reset_fb, rfl, rfl, rfl, rfl, fun _ hk => resetWith_readMem_font font hk,
    fun _ ha => resetWith_readMem_zero font ha⟩

/-- Settles O10: without a request the run state decides; with one, an ended run refuses all but a reset. -/
theorem onlyAResetFollowsAnEndedRun : Obligations.OnlyAResetFollowsAnEndedRun := by
  unfold Obligations.OnlyAResetFollowsAnEndedRun
  intro s
  refine ⟨fun h hin => ?_, fun h hin => ?_, fun h hin => ?_, fun h => ?_⟩
  · rw [step_of_not_running (by rw [h]; decide), hostTurn, hin, h]
  · rw [step_of_not_running (by rw [h]; decide), hostTurn, hin, h]
  · rw [step_of_not_running (by rw [h]; decide), hostTurn, hin, h]
  · have ended : s.runState ≠ .running ∧ s.runState ≠ .idle := by
      rcases h with h | h <;> rw [h] <;> decide
    obtain ⟨hrun, hidle⟩ := ended
    have refused {r : HostRequest} {rest : List HostRequest} (hin : s.hostIn = r :: rest)
        (hr : ∀ font, r ≠ .reset font) : step s = .refused .notIdle :=
      (step_of_request hrun hin).trans (takeRequest_of_not_idle hidle hr)
    exact ⟨fun _ _ hin => refused hin fun _ => nofun, fun _ _ hin => refused hin fun _ => nofun,
      fun _ hin => refused hin fun _ => nofun,
      fun font rest hin => ⟨State.resetAgain { s with hostIn := rest } font, step_of_request hrun hin,
        rfl, rfl, rfl, rfl, rfl, rfl, rfl, rfl, rfl⟩⟩

end Sys2Proof.Machine

/-! # The invariants of the machine and of the schedule (10_state.md R20 to R35; 60_exceptions.md R122, R125;
70_reset_and_hazards.md R140 to R145) -/

namespace Sys2Proof.Machine

/-! ## What an instruction keeps of memory, the stack and pc -/

section
variable {i : Instr} {s t : State}

/-- The instructions that store keep memory canonical, and the others keep memory. -/
theorem exec_mem_wf (h : exec i s = .next t) (hm : s.mem.wf) : t.mem.wf := by
  have guarded {u : State} {n : Nat} (hx : exec i s = .next (s.guardRange n u)) (hu : u.mem.wf) : t.mem.wf := by
    obtain rfl := next_unique hx h
    rcases s.guardRange_cases u n with ⟨-, heq⟩ | ⟨-, heq⟩ <;> rw [heq]
    · exact hu
    · exact hm
  cases hi : storesMemory i
  case false =>
    rcases exec_cases h with ⟨k, -, rfl⟩ | ⟨-, hc⟩
    · exact hm
    · rw [hc.memory hi]
      exact hm
  case true =>
    cases i with
    | ldMemRegs x => exact guarded (exec_ldMemRegs s x) (Memory.storeBytes_wf hm _ _)
    | ldB x => exact guarded (exec_ldB s x) (Memory.storeBytes_wf hm _ _)
    | _ => cases hi

/-- The depth and the stored return addresses are in their bounds (R23, R88). -/
def StackBounded (s : State) : Prop := s.sp ≤ 16 ∧ ∀ k (h : k < 16), k < s.sp → s.stack[k].toNat ≤ 0x1000

theorem StackBounded.of_eq (hs : StackBounded s) (h : t.stack = s.stack ∧ t.sp = s.sp) : StackBounded t := by
  obtain ⟨hstack, hsp⟩ := h
  unfold StackBounded
  rw [hstack, hsp]
  exact hs

theorem StackBounded.push (hs : StackBounded s) (h : s.sp < 16) {w : Word} (hw : w.toNat ≤ 0x1000) :
    StackBounded (s.push w) := by
  refine ⟨h, fun k hk hlt => ?_⟩
  by_cases hne : k = s.sp
  · subst hne
    rwa [State.push_stack, Vector.getElem_setIfInBounds_self]
  · have below : k < s.sp := Nat.lt_of_le_of_ne (Nat.le_of_lt_succ hlt) hne
    rw [State.push_stack, Vector.getElem_setIfInBounds_ne hk (Ne.symm hne)]
    exact hs.2 k hk below

theorem StackBounded.pop (hs : StackBounded s) : StackBounded s.pop :=
  ⟨(Nat.sub_le ..).trans hs.1, fun k hk hlt => hs.2 k hk (hlt.trans_le (Nat.sub_le ..))⟩

theorem StackBounded.top (hs : StackBounded s) (h : 0 < s.sp) : s.top.toNat ≤ 0x1000 := by
  rw [s.top_eq h hs.1]
  exact hs.2 _ _ (Nat.sub_one_lt_of_lt h)

/-- A stack signal keeps the stack and pc under both policies. -/
theorem State.signal_frame (s : State) (k : FaultKind) :
    (s.signal k).stack = s.stack ∧ (s.signal k).sp = s.sp ∧ (s.signal k).pc = s.pc := by
  rcases s.signal_cases k with ⟨-, heq⟩ | ⟨-, heq⟩ <;> rw [heq] <;> exact ⟨rfl, rfl, rfl⟩

/-- The two ways of CALL and of RET. -/
theorem exec_stack_cases (hi : reachesStack i = true) (h : exec i s = .next t) :
    (∃ k, t = s.signal k) ∨ (s.sp < 16 ∧ ∃ nnn, t = { s.push s.pc with pc := addrOf nnn }) ∨
    (0 < s.sp ∧ t = { s.pop with pc := s.top }) := by
  cases i with
  | call nnn =>
    rcases Nat.lt_or_ge s.sp 16 with room | full
    · exact .inr (.inl ⟨room, nnn, next_unique h (exec_call_of_room nnn room)⟩)
    · exact .inl ⟨_, next_unique h (exec_call_of_full nnn full)⟩
  | ret x y =>
    rcases Nat.eq_zero_or_pos s.sp with empty | entry
    · exact .inl ⟨_, next_unique h (exec_ret_of_empty x y empty)⟩
    · exact .inr (.inr ⟨entry, next_unique h (exec_ret_of_entry x y entry)⟩)
  | _ => cases hi

/-- A call stores pc, at most 0x1000 in its execute phase. -/
theorem exec_stackBounded (h : exec i s = .next t) (hpc : s.pc.toNat ≤ 0x1000) (hs : StackBounded s) :
    StackBounded t := by
  cases hi : reachesStack i
  case false =>
    rcases exec_cases h with ⟨k, -, rfl⟩ | ⟨-, hc⟩
    · exact hs
    · exact hs.of_eq (hc.stack hi)
  case true =>
    rcases exec_stack_cases hi h with ⟨k, rfl⟩ | ⟨room, nnn, rfl⟩ | ⟨entry, rfl⟩
    · obtain ⟨hstack, hsp, -⟩ := s.signal_frame k
      exact hs.of_eq ⟨hstack, hsp⟩
    · exact hs.push room hpc
    · exact hs.pop

theorem pc_add_two_toNat_le (p : Word) : (p + 2).toNat ≤ p.toNat + 2 := by
  rw [BitVec.toNat_add]
  exact Nat.mod_le ..

/-- The highest target is that of BNNN, 0xFFF + 0xFF (R87). -/
theorem exec_pc_le (h : exec i s = .next t) (hpc : s.pc.toNat ≤ 0x1000) (hs : StackBounded s) :
    t.pc.toNat ≤ 0x10FE := by
  have jump (nnn : Addr) : (addrOf nnn).toNat ≤ 0xFFF := by
    have := nnn.isLt
    rw [addrOf_toNat]; omega
  have skip {c : Bool} (hx : exec i s = .next (s.skipIf c)) : t.pc.toNat ≤ 0x10FE := by
    obtain rfl := next_unique hx h
    rw [State.skipIf_pc]
    split
    · exact (pc_add_two_toNat_le s.pc).trans (by omega)
    · omega
  cases hi : mayWritePc i
  case false =>
    rcases exec_cases h with ⟨k, -, rfl⟩ | ⟨-, hc⟩
    · exact hpc.trans (by decide)
    · rw [hc.pc hi]
      exact hpc.trans (by decide)
  case true =>
    cases i with
    | jp nnn =>
      obtain rfl := next_unique (exec_jp nnn s) h
      exact (jump nnn).trans (by decide)
    | jpV0 nnn =>
      obtain rfl := next_unique (exec_jpV0 nnn s) h
      have := nnn.isLt
      have := (s.getV (s.jumpReg nnn)).isLt
      rw [addrOf_add_zeroExtend_toNat]
      omega
    | seImm x nn => exact skip (exec_seImm s x nn)
    | sneImm x nn => exact skip (exec_sneImm s x nn)
    | seReg x y n => exact skip (exec_seReg s x y n)
    | sneReg x y n => exact skip (exec_sneReg s x y n)
    | call | ret =>
      rcases exec_stack_cases rfl h with ⟨k, rfl⟩ | ⟨-, nnn, rfl⟩ | ⟨entry, rfl⟩
      · obtain ⟨-, -, hsame⟩ := s.signal_frame k
        rw [hsame]
        exact hpc.trans (by decide)
      · exact (jump nnn).trans (by decide)
      · exact (hs.top entry).trans (by decide)
    | _ => cases hi

end

theorem faultCode_ne_zero (k : FaultKind) : faultCode k ≠ 0 := by
  cases k <;> decide

theorem faultCode_toNat_le (k : FaultKind) : (faultCode k).toNat ≤ 3 := by
  cases k <;> decide

/-! ## The machine's invariant: one lemma per update -/

namespace State.Inv
variable {s t : State}

theorem stackBounded (h : s.Inv) : StackBounded s := ⟨h.depth, h.entries⟩

/-- Without a fault the record of it is clear (R35). -/
theorem noFaultCause (h : s.Inv) (hr : s.runState ≠ .faulted) : s.faultCause = 0 :=
  not_not.mp (mt h.causeFaulted.mpr hr)

theorem withHostIn (h : s.Inv) (rest : List HostRequest) : State.Inv { s with hostIn := rest } := { __ := h }

theorem sample (h : s.Inv) : s.sample.Inv := { __ := h }

theorem tick (h : s.Inv) : s.tick.Inv := { __ := h }

/-- The phase of a running block moves between EXEC and WAIT. -/
theorem setPhase (h : s.Inv) (hrun : s.runState = .running) (p : Phase) (hp : p ≠ .stopped) (d : Rat) :
    State.Inv { s with dInsn := d, phase := p } :=
  { h with phaseRuns := iff_of_true hrun hp }

/-- A run that ends keeps its latches, whose IPS is positive, and stops the loop. -/
theorem halt (h : s.Inv) (hrun : s.runState = .running) : s.halt.Inv :=
  have no_fault : s.runState ≠ .faulted := by rw [hrun]; decide
  { h with
    phaseRuns := iff_of_false nofun fun hp => hp rfl
    causeFaulted := iff_of_false nofun fun hc => hc (h.noFaultCause no_fault)
    noFaultPc := fun _ => h.noFaultPc no_fault
    ipsPositive := fun _ => h.ipsPositive (by rw [hrun]; decide) }

theorem faultEntry (h : s.Inv) (hrun : s.runState = .running) (hA : s.insnAddr.toNat ≤ 0xFFE) (k : FaultKind) :
    (s.faultEntry k).Inv where
  __ := h
  phaseRuns := iff_of_false nofun fun hp => hp rfl
  causeFaulted := iff_of_true rfl (faultCode_ne_zero k)
  causeCode := faultCode_toNat_le k
  noFaultPc hn := (hn rfl).elim
  faultPcBound := hA
  ipsPositive _ := h.ipsPositive (by rw [hrun]; decide)

/-- The execute phase of an instruction at A ≤ 0xFFE, where pc holds A + 2. -/
theorem exec {i : Instr} (h : s.Inv) (hrun : s.runState = .running) (hA : s.insnAddr.toNat ≤ 0xFFE)
    (hpc : s.pc.toNat ≤ 0x1000) (hx : Machine.exec i s = .next t) : t.Inv := by
  rcases exec_cases hx with ⟨k, -, rfl⟩ | ⟨-, hc⟩
  · exact h.faultEntry hrun hA k
  · obtain ⟨hrs, hfc, hfp, hph⟩ := hc.status
    obtain ⟨depth, entries⟩ := exec_stackBounded hx hpc h.stackBounded
    refine ⟨exec_mem_wf hx h.memCanonical, depth, entries, exec_pc_le hx hpc h.stackBounded, ?_, ?_, ?_, ?_, ?_, ?_⟩
      <;> simp only [hrs, hfc, hfp, hph, hc.latches]
    exacts [h.phaseRuns, h.causeFaulted, h.causeCode, h.noFaultPc, h.faultPcBound, h.ipsPositive]

theorem endExecute (h : t.Inv) : t.endExecute.Inv := by
  rw [State.endExecute_eq]
  split
  · exact h
  · exact h.setPhase (h.phaseRuns.mpr ‹_›) .wait nofun t.dInsn

theorem advance (h : s.Inv) (hpc : s.pc.toNat < 0xFFF) : s.advance.Inv where
  __ := h
  pcBound := (pc_add_two_toNat_le s.pc).trans (by omega)

theorem insnSlot (h : s.Inv) (hrun : s.runState = .running) (hx : Machine.insnSlot s = .next t) : t.Inv := by
  rcases insnSlot_cases hx with ⟨-, rfl⟩ | ⟨hpc, u, hu, rfl⟩
  · exact h.halt hrun
  · have fetch_address : s.advance.insnAddr = s.pc := BitVec.add_sub_cancel s.pc 2
    have next_address : s.advance.pc.toNat ≤ 0x1000 := (pc_add_two_toNat_le s.pc).trans (by omega)
    exact ((h.advance hpc).exec hrun (fetch_address ▸ Nat.le_of_lt_succ hpc) next_address hu).endExecute

theorem poll (h : s.Inv) (hrun : s.runState = .running) : s.poll.Inv := by
  rcases s.poll_cases with ⟨-, heq⟩ | ⟨-, -, heq⟩ | ⟨-, -, heq⟩ <;> rw [heq]
  · exact h.setPhase hrun .exec nofun _
  · exact h.tick
  · exact h

theorem resetWith (font : Vector Byte 80) : (State.resetWith font).Inv where
  memCanonical := Memory.storeBytes_wf ⟨List.Pairwise.nil, nofun⟩ _ _
  depth := Nat.zero_le _
  entries _ _ h := (Nat.not_lt_zero _ h).elim
  pcBound := (by decide : State.reset.pc.toNat ≤ 0x10FE)
  phaseRuns := iff_of_false nofun fun hp => hp rfl
  causeFaulted := iff_of_false nofun fun hc => hc rfl
  causeCode := Nat.zero_le _
  noFaultPc _ := rfl
  faultPcBound := Nat.zero_le _
  ipsPositive h := (h rfl).elim

theorem started (h : s.Inv) (hidle : s.runState = .idle) (hips : s.cfg.ips ≠ 0) : s.started.Inv :=
  have no_fault : s.runState ≠ .faulted := by rw [hidle]; decide
  { h with
    phaseRuns := iff_of_true rfl nofun
    causeFaulted := iff_of_false nofun fun hc => hc (h.noFaultCause no_fault)
    noFaultPc := fun _ => h.noFaultPc no_fault
    ipsPositive := fun _ => Nat.one_le_iff_ne_zero.mpr hips }

theorem takeRequest {r : HostRequest} (h : s.Inv) (hx : Machine.takeRequest r s = .next t) : t.Inv := by
  rcases takeRequest_cases hx with ⟨l, -, hidle, -, rfl⟩ | ⟨bytes, -, -, -, rfl⟩ | ⟨-, hidle, hips, rfl⟩ |
    ⟨font, -, rfl⟩
  · exact { h with ipsPositive := fun hn => (hn hidle).elim }
  · exact { h with memCanonical := Memory.storeBytes_wf h.memCanonical _ _ }
  · exact h.sample.started hidle hips
  · exact { State.Inv.resetWith font with }

end State.Inv

/-- Settles O46: each thing a step can do keeps the invariant. -/
theorem everyStepKeepsTheInvariant : Obligations.EveryStepKeepsTheInvariant := by
  unfold Obligations.EveryStepKeepsTheInvariant
  intro s t h hstep
  rcases step_cases hstep with ⟨hrun, -, hslot⟩ | ⟨hrun, -, rfl⟩ | ⟨-, r, rest, -, htake⟩ | ⟨-, -, rfl⟩
  · exact h.insnSlot hrun hslot
  · exact h.sample.poll hrun
  · exact (h.withHostIn rest).takeRequest htake
  · exact h

/-! ## The schedule's invariant -/

namespace State.SchedInv
variable {s t : State}

theorem withHostIn (h : s.SchedInv) (rest : List HostRequest) : State.SchedInv { s with hostIn := rest } := { __ := h }

theorem sample (h : s.SchedInv) : s.sample.SchedInv := { __ := h }

/-- Before START the invariant asks only that no tick has come. -/
theorem of_idle (hidle : s.runState = .idle) (hf : s.frames = []) : s.SchedInv :=
  ⟨fun hn => (hn hidle).elim, fun _ => hf, fun hn => (hn hidle).elim⟩

/-- An update in a run that leaves the latches, the deadlines and the FRAME records. -/
theorem of_eq (h : s.SchedInv) (hs : s.runState ≠ .idle) (ht : t.runState ≠ .idle) (hcfg : t.cfg = s.cfg)
    (hhost : t = t.withHostOf s) : t.SchedInv := by
  have ht0 : t.t0 = s.t0 := by rw [hhost]; rfl
  have hinsn : t.dInsn = s.dInsn := by rw [hhost]; rfl
  have htick : t.dTick = s.dTick := by rw [hhost]; rfl
  have hframes : t.frames = s.frames := by rw [hhost]; rfl
  refine ⟨fun _ => ?_, fun hidle => (ht hidle).elim, fun _ => ?_⟩
  · rw [hcfg]
    exact h.ipsPositive hs
  · rw [hcfg, ht0, hinsn, htick, hframes]
    exact h.deadlines hs

theorem insnSlot (h : s.SchedInv) (hrun : s.runState = .running) (hx : Machine.insnSlot s = .next t) :
    t.SchedInv := by
  have hs : s.runState ≠ .idle := by rw [hrun]; decide
  rcases insnSlot_cases hx with ⟨-, rfl⟩ | ⟨-, u, hu, rfl⟩
  · exact h.of_eq hs nofun rfl rfl
  · have running_or_faulted : u.cfg = s.cfg ∧ u.runState ≠ .idle := by
      rcases exec_cases hu with ⟨k, -, rfl⟩ | ⟨-, hc⟩
      · exact ⟨rfl, nofun⟩
      · obtain ⟨hrs, -⟩ := hc.status
        exact ⟨hc.latches, hrs ▸ hs⟩
    obtain ⟨hcfg, hrs⟩ := running_or_faulted
    have host := exec_host_frame hu
    have after_exec : u.SchedInv := h.of_eq hs hrs hcfg host
    rw [State.endExecute_eq]
    split
    · exact after_exec
    · exact { after_exec with }

/-- The instruction deadline passed: one more instruction. -/
theorem passDeadline (h : s.SchedInv) (hs : s.runState ≠ .idle) (p : Phase) :
    State.SchedInv { s with dInsn := s.dInsn + s.insnPeriod, phase := p } where
  __ := h
  deadlines _ := by
    obtain ⟨k, hinsn, htick, horder⟩ := h.deadlines hs
    refine ⟨k + 1, ?_, htick, ?_⟩
    · show s.dInsn + 1 / (s.cfg.ips : Rat) = _
      rw [hinsn, add_assoc, ← add_div]
      push_cast
      rfl
    · show s.frames.length * s.cfg.ips < 60 * (k + 1 + 1)
      omega

/-- A tick whose deadline is before the instruction's: (j + 1)/60 < (k + 1)/IPS. -/
theorem tick (h : s.SchedInv) (hs : s.runState ≠ .idle) (hd : s.dTick < s.dInsn) : s.tick.SchedInv where
  ipsPositive := h.ipsPositive
  idleNoTick hidle := (hs hidle).elim
  deadlines _ := by
    obtain ⟨k, hinsn, htick, -⟩ := h.deadlines hs
    have ips_pos : (0 : Rat) < s.cfg.ips := Nat.cast_pos.mpr (h.ipsPositive hs)
    have order : (s.frames.length + 1 : Rat) / 60 < (k + 1 : Rat) / s.cfg.ips := by
      rw [hinsn, htick] at hd
      exact lt_of_add_lt_add_left hd
    refine ⟨k, hinsn, ?_, ?_⟩
    · rw [State.tick_dTick, htick, tickPeriod, State.tick_frames, List.length_cons, add_assoc, ← add_div]
      push_cast
      rfl
    · rw [div_lt_div_iff₀ (by norm_num) ips_pos] at order
      rw [State.tick_frames, List.length_cons, mul_comm 60]
      exact_mod_cast order

theorem poll (h : s.SchedInv) (hs : s.runState ≠ .idle) : s.poll.SchedInv := by
  rcases s.poll_cases with ⟨-, heq⟩ | ⟨hd, ht, heq⟩ | ⟨-, -, heq⟩ <;> rw [heq]
  · exact h.passDeadline hs .exec
  · exact h.tick hs (ht.trans_lt hd)
  · exact h

/-- At START, instruction 0 and tick 0 are both to come. -/
theorem started (h : s.SchedInv) (hidle : s.runState = .idle) (hips : s.cfg.ips ≠ 0) : s.started.SchedInv where
  ipsPositive _ := Nat.one_le_iff_ne_zero.mpr hips
  idleNoTick := nofun
  deadlines _ := by
    have no_tick : s.frames = [] := h.idleNoTick hidle
    refine ⟨0, ?_, ?_, ?_⟩
    · show s.now + 1 / (s.cfg.ips : Rat) = s.now + _
      norm_num
    · show s.now + 1 / 60 = s.now + (s.frames.length + 1 : Rat) / 60
      rw [no_tick]
      norm_num
    · show s.frames.length * s.cfg.ips < 60 * (0 + 1)
      rw [no_tick]
      norm_num

theorem takeRequest {r : HostRequest} (h : s.SchedInv) (hx : Machine.takeRequest r s = .next t) : t.SchedInv := by
  rcases takeRequest_cases hx with ⟨l, -, hidle, -, rfl⟩ | ⟨bytes, -, hidle, -, rfl⟩ | ⟨-, hidle, hips, rfl⟩ |
    ⟨font, -, rfl⟩
  · exact of_idle hidle (h.idleNoTick hidle)
  · exact of_idle hidle (h.idleNoTick hidle)
  · exact h.sample.started hidle hips
  · exact of_idle rfl rfl

end State.SchedInv

/-- Settles O40: each thing a step can do keeps the schedule's invariant. -/
theorem everyStepKeepsTheSchedule : Obligations.EveryStepKeepsTheSchedule := by
  unfold Obligations.EveryStepKeepsTheSchedule
  intro s t h hstep
  rcases step_cases hstep with ⟨hrun, -, hslot⟩ | ⟨hrun, -, rfl⟩ | ⟨-, r, rest, -, htake⟩ | ⟨-, -, rfl⟩
  · exact h.insnSlot hrun hslot
  · exact h.sample.poll (by rw [State.sample_runState, hrun]; decide)
  · exact (h.withHostIn rest).takeRequest htake
  · exact h

/-- Settles O47: State.reset is the reset sequence with the default FONT, and no tick has come. -/
theorem resetMeetsTheInvariants : Obligations.ResetMeetsTheInvariants := by
  unfold Obligations.ResetMeetsTheInvariants
  exact ⟨resetWith_defaultFont ▸ State.Inv.resetWith Config.defaultFont, State.SchedInv.of_idle rfl rfl⟩

end Sys2Proof.Machine

/-! # Memory transfers through I (20_memory.md R50, R54, R62; 43_index_memory.md R111 to R114) -/

namespace Sys2Proof.Machine

/-! ## The three effects, and when they take place -/

section
variable (s : State) (x : Reg)

theorem exec_ldMemRegs_inRange (h : s.I.toNat + x.val ≤ 0xFFF) : exec (.ldMemRegs x) s = .next (s.dumped x) := by
  rw [exec_ldMemRegs, s.guardRange_inRange _ (.inr h)]

theorem exec_ldRegsMem_inRange (h : s.I.toNat + x.val ≤ 0xFFF) : exec (.ldRegsMem x) s = .next (s.reloaded x) := by
  rw [exec_ldRegsMem, s.guardRange_inRange _ (.inr h)]

theorem exec_ldB_inRange (h : s.I.toNat + 2 ≤ 0xFFF) : exec (.ldB x) s = .next (s.digitsStored x) := by
  rw [exec_ldB, s.guardRange_inRange _ (.inr h)]

theorem regsUpTo_length : (s.regsUpTo x).length = x.val + 1 := by
  rw [State.regsUpTo, List.length_take, Vector.length_toList]
  omega

theorem regsUpTo_getD {r : Reg} (hr : r ≤ x) : (s.regsUpTo x).getD r.val 0 = s.getV r := by
  have taken : r.val < x.val + 1 := Nat.lt_succ_of_le hr
  rw [State.regsUpTo, List.getD_eq_getElem?_getD, List.getElem?_take_of_lt taken, Vector.getElem?_toList,
    Vector.getElem?_eq_getElem r.isLt, Option.getD_some, State.getV, Vector.get_eq_getElem]

/-- I after FX55 or FX65, as a natural (R111, R112). -/
theorem bulkIndex_toNat :
    (s.bulkIndex x).toNat = (s.I.toNat + if s.cfg.qIncr = true then x.val + 1 else 0) % 65536 := by
  have kept : s.I.toNat % 65536 = s.I.toNat := Nat.mod_eq_of_lt s.I.isLt
  unfold State.bulkIndex
  split
  · rw [BitVec.toNat_add, BitVec.toNat_ofNat, Nat.add_mod_mod]
  · exact kept.symm

/-- Without Q_INCR neither of the two moves I. -/
theorem bulkIndex_of_clear (h : s.cfg.qIncr = false) : s.bulkIndex x = s.I := by
  rw [State.bulkIndex, h]; rfl

end

/-! ## FX55 and FX33: the bytes stored, and the others -/

section
variable {s : State} (hm : s.mem.wf) {x : Reg}
include hm

theorem dumped_readMem (h : s.I.toNat + x.val ≤ 0xFFF) (a : Nat) :
    (s.dumped x).readMem a =
      if s.I.toNat ≤ a ∧ a < s.I.toNat + (x.val + 1) then (s.regsUpTo x).getD (a - s.I.toNat) 0
      else s.readMem a := by
  have fits : s.I.toNat + (s.regsUpTo x).length ≤ 0x1000 := by rw [regsUpTo_length]; omega
  have stored := Memory.read_storeBytes hm fits a
  rwa [regsUpTo_length] at stored

theorem dumped_readMem_reg (h : s.I.toNat + x.val ≤ 0xFFF) {r : Reg} (hr : r ≤ x) :
    (s.dumped x).readMem (s.I.toNat + r.val) = s.getV r := by
  have hr' : r.val ≤ x.val := hr
  rw [dumped_readMem hm h, if_pos (by omega), Nat.add_sub_cancel_left, regsUpTo_getD s x hr]

theorem dumped_readMem_other (h : s.I.toNat + x.val ≤ 0xFFF) {a : Nat}
    (ha : a < s.I.toNat ∨ s.I.toNat + x.val < a) : (s.dumped x).readMem a = s.readMem a := by
  rw [dumped_readMem hm h, if_neg (by omega)]

theorem digitsStored_readMem (h : s.I.toNat + 2 ≤ 0xFFF) (a : Nat) :
    (s.digitsStored x).readMem a =
      if s.I.toNat ≤ a ∧ a < s.I.toNat + 3 then (bcdDigits (s.getV x)).getD (a - s.I.toNat) 0 else s.readMem a :=
  Memory.read_storeBytes hm (Nat.succ_le_succ h : s.I.toNat + 3 ≤ 0x1000) a

theorem digitsStored_readMem_digit (h : s.I.toNat + 2 ≤ 0xFFF) {k : Nat} (hk : k < 3) :
    (s.digitsStored x).readMem (s.I.toNat + k) = (bcdDigits (s.getV x)).getD k 0 := by
  rw [digitsStored_readMem hm h, if_pos (by omega), Nat.add_sub_cancel_left]

theorem digitsStored_readMem_other (h : s.I.toNat + 2 ≤ 0xFFF) {a : Nat}
    (ha : a < s.I.toNat ∨ s.I.toNat + 2 < a) : (s.digitsStored x).readMem a = s.readMem a := by
  rw [digitsStored_readMem hm h, if_neg (by omega)]

end

/-- The three digits, as naturals: each is below 256 (R113). -/
theorem bcdDigits_toNat (b : Byte) :
    ((bcdDigits b).getD 0 0).toNat = b.toNat / 100 ∧ ((bcdDigits b).getD 1 0).toNat = b.toNat / 10 % 10 ∧
    ((bcdDigits b).getD 2 0).toNat = b.toNat % 10 := by
  have byte {n : Nat} (hn : n < 256) : (BitVec.ofNat 8 n).toNat = n := by
    rw [BitVec.toNat_ofNat]
    exact Nat.mod_eq_of_lt hn
  have := b.isLt
  exact ⟨byte (by omega), byte (by omega), byte (by omega)⟩

/-- Past 0xFFF every instruction through I takes the fault entry with code 3. -/
theorem exec_outOfRange {i : Instr} {s : State} (h0 : bytesThroughI i ≠ 0)
    (h : 0xFFF < s.I.toNat + bytesThroughI i - 1) : exec i s = .next (Faulted s 3) :=
  outOfRangeAccessHasNoEffect.1 i s h0 h

/-- Settles O24: in range FX55 is `dumped`. -/
theorem registerDumpStoresTheRegisters : Obligations.RegisterDumpStoresTheRegisters := by
  unfold Obligations.RegisterDumpStoresTheRegisters
  intro s x hm
  exact ⟨fun h => ⟨_, exec_ldMemRegs_inRange s x h, fun _ hr => dumped_readMem_reg hm h hr,
    fun _ ha => dumped_readMem_other hm h ha, bulkIndex_toNat s x, rfl⟩,
    fun h => exec_outOfRange (i := .ldMemRegs x) (Nat.succ_ne_zero _) h⟩

/-- Settles O26: in range FX33 is `digitsStored`. -/
theorem decimalDigitsAreStored : Obligations.DecimalDigitsAreStored := by
  unfold Obligations.DecimalDigitsAreStored
  intro s x hm
  obtain ⟨hundreds, tens, ones⟩ := bcdDigits_toNat (s.getV x)
  refine ⟨fun h => ⟨_, exec_ldB_inRange s x h, ?_, ?_, ?_, fun _ ha => digitsStored_readMem_other hm h ha, rfl⟩,
    fun h => exec_outOfRange (i := .ldB x) (Nat.succ_ne_zero _) h⟩
  · exact (congrArg _ (digitsStored_readMem_digit hm h (k := 0) (by decide))).trans hundreds
  · exact (congrArg _ (digitsStored_readMem_digit hm h (by decide))).trans tens
  · exact (congrArg _ (digitsStored_readMem_digit hm h (by decide))).trans ones

/-! ## FX65 -/

section
variable (s : State) (x : Reg)

theorem reloaded_getV (r : Reg) : (s.reloaded x).getV r = if r ≤ x then s.readI r.val else s.getV r :=
  s.loadedRegs_get x r

theorem reloaded_I : (s.reloaded x).I = s.bulkIndex x := by rw [State.reloaded]

theorem reloaded_eq : s.reloaded x = { s with v := (s.reloaded x).v, I := (s.reloaded x).I } := by
  rw [State.reloaded]

end

/-- Settles O25: in range FX65 is `reloaded`. -/
theorem registerLoadReadsMemory : Obligations.RegisterLoadReadsMemory := by
  unfold Obligations.RegisterLoadReadsMemory
  intro s x
  refine ⟨fun h => ⟨_, exec_ldRegsMem_inRange s x h, fun r hr => ?_, fun r hr => ?_, ?_, reloaded_eq s x, fun a => ?_⟩,
    fun h => exec_outOfRange (i := .ldRegsMem x) (Nat.succ_ne_zero _) h⟩
  · rw [reloaded_getV, if_pos hr, State.readI]
  · rw [reloaded_getV, if_neg (not_le.mpr hr)]
  · rw [reloaded_I, bulkIndex_toNat]
  · rw [reloaded_eq]; rfl

/-- Settles O27: FX65 reads the cells FX55 wrote. -/
theorem dumpThenLoadRestoresTheRegisters : Obligations.DumpThenLoadRestoresTheRegisters := by
  unfold Obligations.DumpThenLoadRestoresTheRegisters
  intro s t x hm h ht
  obtain rfl := next_unique (exec_ldMemRegs_inRange s x h) ht
  refine ⟨fun u hI hcells => ?_, bulkIndex_toNat s x, fun hq => ?_⟩
  · refine ⟨_, exec_ldRegsMem_inRange u x (hI ▸ h), fun r hr => ?_, ?_⟩
    · rw [reloaded_getV, if_pos hr, State.readI, hI, hcells r hr, dumped_readMem_reg hm h hr]
    · rw [reloaded_I, bulkIndex_toNat]
  · have hI : (s.dumped x).I = s.I := bulkIndex_of_clear s x hq
    refine ⟨_, exec_ldRegsMem_inRange (s.dumped x) x (hI ▸ h), State.v_ext fun r => ?_, ?_⟩
    · rw [reloaded_getV]
      split
      · next hr => rw [State.readI, hI, dumped_readMem_reg hm h hr]
      · rfl
    · rw [reloaded_I, bulkIndex_of_clear (s.dumped x) x hq, hI]

/-! ## A store and the next fetch (R50, R62) -/

theorem CellAfterDump.readMem_eq {s : State} {x : Reg} {a : Nat} {b : Byte} (hc : CellAfterDump s x a b)
    (hm : s.mem.wf) (h : s.I.toNat + x.val ≤ 0xFFF) : (s.dumped x).readMem a = b := by
  obtain ⟨r, hr, rfl, rfl⟩ | ⟨ha, rfl⟩ := hc
  · exact dumped_readMem_reg hm h hr
  · exact dumped_readMem_other hm h ha

theorem CellAfterDigits.readMem_eq {s : State} {x : Reg} {a : Nat} {b : Byte} (hc : CellAfterDigits s x a b)
    (hm : s.mem.wf) (h : s.I.toNat + 2 ≤ 0xFFF) : (s.digitsStored x).readMem a = b := by
  obtain ⟨hundreds, tens, ones⟩ := bcdDigits_toNat (s.getV x)
  have digit {k : Nat} (hk : k < 3) (hb : ((bcdDigits (s.getV x)).getD k 0).toNat = b.toNat) :
      (s.digitsStored x).readMem (s.I.toNat + k) = b :=
    (digitsStored_readMem_digit hm h hk).trans (BitVec.eq_of_toNat_eq hb)
  obtain ⟨rfl, hb⟩ | ⟨rfl, hb⟩ | ⟨rfl, hb⟩ | ⟨ha, rfl⟩ := hc
  · exact digit (k := 0) (by decide) (hundreds.trans hb.symm)
  · exact digit (by decide) (tens.trans hb.symm)
  · exact digit (by decide) (ones.trans hb.symm)
  · exact digitsStored_readMem_other hm h ha

/-- The word at p is its two bytes, the high one first (R50). -/
theorem fetchWord_at {t : State} {p : Word} {hi lo : Byte} (hhi : t.readMem p.toNat = hi)
    (hlo : t.readMem (p.toNat + 1) = lo) : State.fetchWord { t with pc := p } = hi ++ lo := by
  rw [← hhi, ← hlo]
  rfl

/-- Settles O29: a fetch reads the two cells, and each holds what its clause says. -/
theorem storedBytesAreFetched : Obligations.StoredBytesAreFetched := by
  unfold Obligations.StoredBytesAreFetched
  intro s x hm
  exact ⟨fun h => ⟨_, exec_ldMemRegs_inRange s x h, fun _ _ _ hhi hlo =>
      fetchWord_at (hhi.readMem_eq hm h) (hlo.readMem_eq hm h)⟩,
    fun h => ⟨_, exec_ldB_inRange s x h, fun _ _ _ hhi hlo =>
      fetchWord_at (hhi.readMem_eq hm h) (hlo.readMem_eq hm h)⟩⟩

end Sys2Proof.Machine

/-! # DXYN (40_display.md R80 to R84) -/

namespace Sys2Proof.Machine

/-- A sprite row lands on one framebuffer row at most (R82). -/
theorem landsOn_unique {p : VerticalPolicy} {q : Nat} {j k : Fin 32} (hj : LandsOn p q j) (hk : LandsOn p q k) :
    j = k := by
  rw [landsOn_iff] at hj hk
  exact Option.some.inj (hj.symm.trans hk)

/-! ## The loop over the sprite's rows -/

section
variable (s : State) (col row0 : Nat)

/-- A framebuffer row that no sprite row lands on keeps its pixels. -/
theorem drawRows_undrawn (n : Nat) {k : Fin 32} (hk : ∀ r, r < n → ¬ LandsOn s.cfg.verticalPolicy (row0 + r) k) :
    (drawRows s col row0 n).1.get k = s.fb.get k := by
  induction n with
  | zero => rfl
  | succ n ih =>
    have before := ih fun r hr => hk r (Nat.lt_succ_of_lt hr)
    rw [drawRows_succ]
    rcases drawRow_cases s col row0 (drawRows s col row0 n) n with ⟨-, heq⟩ | ⟨j, hj, hrows, -⟩
    · rw [heq, before]
    · have other : k ≠ j := fun e => hk n (Nat.lt_succ_self n) (e ▸ hj)
      rw [hrows, if_neg other, before]

/-- One more sprite row: dropped, or XORed into a row that still has its pixels from before the instruction, which
decide the flag. -/
theorem drawRows_succ_cases {n : Nat} (hn : n < 16) :
    ((∀ k, ¬ LandsOn s.cfg.verticalPolicy (row0 + n) k) ∧ drawRows s col row0 (n + 1) = drawRows s col row0 n) ∨
    ∃ k, LandsOn s.cfg.verticalPolicy (row0 + n) k ∧
      (∀ j, (drawRows s col row0 (n + 1)).1.get j =
        if j = k then s.fb.get k ^^^ rowMask (s.readI n) col else (drawRows s col row0 n).1.get j) ∧
      (drawRows s col row0 (n + 1)).2 =
        if s.fb.get k &&& rowMask (s.readI n) col ≠ 0 then 1 else (drawRows s col row0 n).2 := by
  rw [drawRows_succ]
  rcases drawRow_cases s col row0 (drawRows s col row0 n) n with hdropped | ⟨k, hk, hrows, hflag⟩
  · exact .inl hdropped
  · have fresh : (drawRows s col row0 n).1.get k = s.fb.get k :=
      drawRows_undrawn s col row0 n fun r hr hrk =>
        Nat.ne_of_lt hr (landsOn_injective (hr.trans hn) hn hrk hk)
    rw [fresh] at hrows hflag
    exact .inr ⟨k, hk, hrows, hflag⟩

/-- A framebuffer row that a sprite row lands on is XORed with its mask, once. -/
theorem drawRows_drawn {n r : Nat} {k : Fin 32} (hn : n ≤ 16) (hr : r < n)
    (hk : LandsOn s.cfg.verticalPolicy (row0 + r) k) :
    (drawRows s col row0 n).1.get k = s.fb.get k ^^^ rowMask (s.readI r) col := by
  induction n with
  | zero => exact absurd hr (Nat.not_lt_zero r)
  | succ n ih =>
    have step := drawRows_succ_cases s col row0 hn
    rcases Nat.lt_succ_iff_lt_or_eq.mp hr with earlier | rfl
    · have before := ih (Nat.le_of_lt hn) earlier
      rcases step with ⟨-, heq⟩ | ⟨j, hj, hrows, -⟩
      · rw [heq, before]
      · have other : k ≠ j := fun e =>
          Nat.ne_of_lt earlier (landsOn_injective (hr.trans_le hn) hn hk (e ▸ hj))
        rw [hrows, if_neg other, before]
    · rcases step with ⟨hnone, -⟩ | ⟨j, hj, hrows, -⟩
      · exact absurd hk (hnone k)
      · rw [hrows, landsOn_unique hk hj, if_pos rfl]

/-- Sprite row r turns a lit pixel off. -/
def RowCollides (r : Nat) : Prop :=
  ∃ k, LandsOn s.cfg.verticalPolicy (row0 + r) k ∧ s.fb.get k &&& rowMask (s.readI r) col ≠ 0

/-- The flag is 1 exactly when some row turned a lit pixel off (R83). -/
theorem drawRows_flag {n : Nat} (hn : n ≤ 16) :
    (drawRows s col row0 n).2 = 1 ↔ ∃ r < n, RowCollides s col row0 r := by
  induction n with
  | zero => simp [drawRows_zero]
  | succ n ih =>
    rw [Nat.exists_lt_succ_right, ← ih (Nat.le_of_lt hn)]
    rcases drawRows_succ_cases s col row0 hn with ⟨hnone, heq⟩ | ⟨k, hk, -, hflag⟩
    · have no_collision : ¬ RowCollides s col row0 n := fun ⟨k, hk, _⟩ => hnone k hk
      rw [heq, or_iff_left no_collision]
    · have collision : RowCollides s col row0 n ↔ s.fb.get k &&& rowMask (s.readI n) col ≠ 0 :=
        ⟨fun ⟨j, hj, hlit⟩ => landsOn_unique hj hk ▸ hlit, fun hlit => ⟨k, hk, hlit⟩⟩
      rw [hflag, collision]
      split
      · next hlit => exact iff_of_true rfl (.inr hlit)
      · next hdark => rw [or_iff_left hdark]

theorem drawRows_flag_cases (n : Nat) : (drawRows s col row0 n).2 = 0 ∨ (drawRows s col row0 n).2 = 1 := by
  induction n with
  | zero => exact .inl rfl
  | succ n ih =>
    rw [drawRows_succ]
    rcases drawRow_cases s col row0 (drawRows s col row0 n) n with ⟨-, heq⟩ | ⟨k, -, -, hflag⟩
    · rwa [heq]
    · rw [hflag]
      split
      · exact .inr rfl
      · exact ih

end

/-! ## The instruction -/

section
variable (s : State) (x y : Reg) (n : Nibble)

theorem exec_drw_inRange (h : n.toNat = 0 ∨ s.I.toNat + n.toNat - 1 ≤ 0xFFF) :
    exec (.drw x y n) s = .next (s.spriteDrawn x y n) := by
  rw [exec_drw, s.guardRange_inRange _ h]

/-- The framebuffer and the flag are those of the loop. -/
theorem spriteDrawn_fb : (s.spriteDrawn x y n).fb = (drawRows s (s.spriteCol x) (s.spriteRow y) n.toNat).1 := rfl

theorem spriteDrawn_VF :
    (s.spriteDrawn x y n).getV VF = (drawRows s (s.spriteCol x) (s.spriteRow y) n.toNat).2 := State.getV_setV ..

theorem spriteDrawn_drawn {r : Nat} {k : Fin 32} (hr : r < n.toNat)
    (hk : LandsOn s.cfg.verticalPolicy (s.spriteRow y + r) k) :
    (s.spriteDrawn x y n).fb.get k = s.fb.get k ^^^ rowMask (s.readI r) (s.spriteCol x) :=
  drawRows_drawn s (s.spriteCol x) (s.spriteRow y) (Nat.le_of_lt n.isLt) hr hk

theorem spriteDrawn_undrawn {k : Fin 32}
    (hk : ∀ r, r < n.toNat → ¬ LandsOn s.cfg.verticalPolicy (s.spriteRow y + r) k) :
    (s.spriteDrawn x y n).fb.get k = s.fb.get k :=
  drawRows_undrawn s (s.spriteCol x) (s.spriteRow y) n.toNat hk

theorem spriteDrawn_flag :
    (s.spriteDrawn x y n).getV VF = 1 ↔ ∃ r k, r < n.toNat ∧ LandsOn s.cfg.verticalPolicy (s.spriteRow y + r) k ∧
      s.fb.get k &&& rowMask (s.readI r) (s.spriteCol x) ≠ 0 := by
  rw [spriteDrawn_VF, drawRows_flag s _ _ (Nat.le_of_lt n.isLt)]
  simp only [RowCollides, exists_and_left]

theorem spriteDrawn_flag_cases : (s.spriteDrawn x y n).getV VF = 0 ∨ (s.spriteDrawn x y n).getV VF = 1 := by
  rw [spriteDrawn_VF]
  exact drawRows_flag_cases s _ _ _

end

/-- Settles O32: in range DXYN is `spriteDrawn`. -/
theorem drawXorsTheSprite : Obligations.DrawXorsTheSprite := by
  unfold Obligations.DrawXorsTheSprite
  rintro s x y n col row0 rfl rfl h
  exact ⟨_, exec_drw_inRange s x y n (h.imp_left (congrArg BitVec.toNat)),
    fun _ _ hr hk => spriteDrawn_drawn s x y n hr hk, fun _ hk => spriteDrawn_undrawn s x y n hk, spriteDrawn_flag s x y n, spriteDrawn_flag_cases s x y n,
    fun _ hq => State.getV_setV_ne _ _ hq, rfl, fun _ => rfl⟩

/-! ## Drawing twice (R84) -/

section
variable (a m : Row)

/-- The pixels of a mask that are lit after the XOR are those that were dark before it. -/
theorem xor_and_mask : (a ^^^ m) &&& m = ~~~a &&& m := by
  ext k hk
  simp only [BitVec.getElem_and, BitVec.getElem_xor, BitVec.getElem_not]
  cases a[k] <;> cases m[k] <;> rfl

/-- Where no pixel of a mask is lit, all of them are dark. -/
theorem not_and_mask_of_dark (h : a &&& m = 0#64) : ~~~a &&& m = m := by
  ext k hk
  have dark : (a[k] && m[k]) = false := by
    rw [← BitVec.getElem_and, h, BitVec.getElem_zero]
  rw [BitVec.getElem_and, BitVec.getElem_not]
  revert dark
  cases a[k] <;> cases m[k] <;> decide

end

/-- The origin of a sprite is read from its two registers alone (R80). -/
theorem spriteCol_congr {s t : State} {x : Reg} (h : t.getV x = s.getV x) : t.spriteCol x = s.spriteCol x := by
  rw [State.spriteCol, h, State.spriteCol]

theorem spriteRow_congr {s t : State} {y : Reg} (h : t.getV y = s.getV y) : t.spriteRow y = s.spriteRow y := by
  rw [State.spriteRow, h, State.spriteRow]

/-- Two framebuffers that agree row by row are equal. -/
theorem State.fb_ext {s t : State} (h : ∀ k, s.fb.get k = t.fb.get k) : s.fb = t.fb :=
  Vector.ext fun k hk => h ⟨k, hk⟩

section
variable {s : State} {x y : Reg} {n : Nibble} (hx : (s.spriteDrawn x y n).getV x = s.getV x)
  (hy : (s.spriteDrawn x y n).getV y = s.getV y)
include hx hy

/-- With both coordinates as before, the second draw undoes each XOR of the first. -/
theorem spriteDrawn_twice_fb : ((s.spriteDrawn x y n).spriteDrawn x y n).fb = s.fb := by
  have same_col := spriteCol_congr hx
  have same_row := spriteRow_congr hy
  refine State.fb_ext fun k => ?_
  by_cases hk : ∃ r < n.toNat, LandsOn s.cfg.verticalPolicy (s.spriteRow y + r) k
  · obtain ⟨r, hr, hk⟩ := hk
    have second := spriteDrawn_drawn (s.spriteDrawn x y n) x y n hr (same_row.symm ▸ hk)
    rw [second, spriteDrawn_drawn s x y n hr hk, same_col, BitVec.xor_assoc]
    exact (congrArg _ BitVec.xor_self).trans BitVec.xor_zero
  · have undrawn : ∀ r, r < n.toNat → ¬ LandsOn s.cfg.verticalPolicy (s.spriteRow y + r) k := fun r hr hl =>
      hk ⟨r, hr, hl⟩
    have second := spriteDrawn_undrawn (s.spriteDrawn x y n) x y n (k := k) (same_row.symm ▸ undrawn)
    rw [second, spriteDrawn_undrawn s x y n undrawn]

/-- It sets the flag when some mask has a pixel that was dark before the first (R83). -/
theorem spriteDrawn_twice_flag :
    ((s.spriteDrawn x y n).spriteDrawn x y n).getV VF = 1 ↔ ∃ r k, r < n.toNat ∧
      LandsOn s.cfg.verticalPolicy (s.spriteRow y + r) k ∧
      ~~~(s.fb.get k) &&& rowMask (s.readI r) (s.spriteCol x) ≠ 0 := by
  have same_col := spriteCol_congr hx
  have same_row := spriteRow_congr hy
  rw [spriteDrawn_flag, same_col, same_row]
  refine exists_congr fun r => exists_congr fun k => and_congr_right fun hr => and_congr_right fun hk => ?_
  rw [spriteDrawn_drawn s x y n hr hk, ← xor_and_mask]
  rfl

end

/-- Settles O33: the two laws of a second draw; where the first turned no lit pixel off, every pixel under a mask
was dark. -/
theorem drawingTwiceRestoresTheDisplay : Obligations.DrawingTwiceRestoresTheDisplay := by
  unfold Obligations.DrawingTwiceRestoresTheDisplay
  intro s t x y n h ht hx hy
  have in_range : n.toNat = 0 ∨ s.I.toNat + n.toNat - 1 ≤ 0xFFF := h.imp_left (congrArg BitVec.toNat)
  obtain rfl := next_unique (exec_drw_inRange s x y n in_range) ht
  refine ⟨_, exec_drw_inRange (s.spriteDrawn x y n) x y n in_range, spriteDrawn_twice_fb hx hy,
    spriteDrawn_twice_flag hx hy, fun hVF => (spriteDrawn_twice_flag hx hy).trans ?_⟩
  have no_collision := mt (spriteDrawn_flag s x y n).mpr (by rw [hVF]; decide)
  refine exists_congr fun r => exists_congr fun k => and_congr_right fun hr => and_congr_right fun hk => ?_
  have dark : s.fb.get k &&& rowMask (s.readI r) (s.spriteCol x) = 0 :=
    not_not.mp fun hlit => no_collision ⟨r, k, hr, hk, hlit⟩
  rw [not_and_mask_of_dark _ _ dark]
  rfl

/-- Settles O13: the flag of an arithmetic instruction is a `flagOf`, and that of DXYN starts at 0 and is only ever
set to 1. -/
theorem flagsAreZeroOrOne : Obligations.FlagsAreZeroOrOne := by
  unfold Obligations.FlagsAreZeroOrOne
  intro i s hi hnone
  have flag {x : Reg} {b : Byte} {c : Bool} (hx : exec i s = .next (s.setVFlag x b (flagOf c))) :
      ∃ t, exec i s = .next t ∧ (t.getV VF = 0 ∨ t.getV VF = 1) := by
    refine ⟨_, hx, ?_⟩
    rw [State.getV_setVFlag_VF]
    exact flagOf_cases c
  cases i with
  | addReg x y => exact flag (exec_addReg s x y)
  | sub x y => exact flag (exec_sub s x y)
  | subn x y => exact flag (exec_subn s x y)
  | shr x y => exact flag (exec_shr s x y)
  | shl x y => exact flag (exec_shl s x y)
  | drw x y n =>
    have in_range : n.toNat = 0 ∨ s.I.toNat + n.toNat - 1 ≤ 0xFFF := inRange_of_faultCondition rfl hnone
    exact ⟨_, exec_drw_inRange s x y n in_range, spriteDrawn_flag_cases s x y n⟩
  | _ => cases hi

end Sys2Proof.Machine
